-- ==== Sys2Proof/Word.lean ====
section
/-! DEFINITION. The word types of the RTU frame codec (00_scope.md R7, 10_state.md R20, 20_memory.md R50). -/

namespace Sys2Proof

/-- `u8` of R7: one frame byte or an 8-bit register. -/
abbrev Byte := BitVec 8

/-- `u16` of R7: the host port's data word, a command word, a 16-bit register. -/
abbrev Word := BitVec 16

/-- `u9` of R7: the frame lengths TXLEN and RXLEN. -/
abbrev Len := BitVec 9

/-- A 12-bit word address of the host port (R50). -/
abbrev PortAddr := BitVec 12

end Sys2Proof
end

