-- ==== Sys2Proof/Config.lean ====
section
/-! DEFINITION. The one parameter the spec leaves open: CRC_INIT (00_scope.md R6, 92_eei_decisions.md D5). -/

namespace Sys2Proof

/-- What an implementation fixes: "A model takes `CRC_INIT` as an argument, and every other value is fixed" (R6).
The record is carried in `State` and no step changes it, so a claim about every state is a claim about every CRC_INIT
(log 1). -/
structure Config where
  crcInit : Word
  deriving DecidableEq, Repr

/-- The default of R6: CRC_INIT = 0xFFFF (the spec marks the number as general knowledge, D5; log 1). -/
def Config.default : Config := { crcInit := 0xFFFF#16 }

end Sys2Proof
end

