-- ==== Sys2Proof/Syntax.lean ====
section
/-! DEFINITION. The instructions: one constructor per row of spec/opcode_table.json. -/

namespace Sys2Proof

/-- The two function codes of the block (00_scope.md R4): an exception response carries one of them OR 0x80. -/
inductive FuncCode where
  | readHolding   -- 0x03
  | writeSingle   -- 0x06
  deriving DecidableEq, Repr

/-- The rows of the opcode table. The first nine are the command words of 30_encoding.md R72 and R73; the last five are
the RTU frames of R76 to R80 (log 5 says what running a frame means). A request frame's CRC is computed by the block, so
it is no operand; a response frame's CRC field is received, so it is one. -/
inductive Instr where
  /-- NOP, 0x0000 (R170). -/
  | nop
  /-- CRC_INIT, 0x0001 (R102). -/
  | crcInit
  /-- CRC_BYTE, `iiiiiiii00000010` with the data byte IMM8 (R103). -/
  | crcByte (imm8 : Byte)
  /-- ENC_READ, 0x0003 (R120). -/
  | encRead
  /-- ENC_WRITE, 0x0004 (R121). -/
  | encWrite
  /-- DEC_RESP, 0x0005 (R141). -/
  | decResp
  /-- DEC_FRAME, 0x0006 (R150). -/
  | decFrame
  /-- LOOP, 0x0007 (R171). -/
  | loop
  /-- ILLEGAL: a command word that selects no command (R73, R172). -/
  | illegal (w : Word)
  /-- FRAME_READ_REQUEST `[slave][0x03][addr][count][crc]` (R76). -/
  | frameReadRequest (slave : Byte) (addr count : Word)
  /-- FRAME_WRITE_REQUEST `[slave][0x06][addr][value][crc]` (R77). -/
  | frameWriteRequest (slave : Byte) (addr value : Word)
  /-- FRAME_READ_RESPONSE `[slave][0x03][bc][values][crc]` (R78, R143). -/
  | frameReadResponse (slave : Byte) (values : List Word) (crc : Word)
  /-- FRAME_WRITE_RESPONSE `[slave][0x06][addr][value][crc]`, the echo (R79, R144). -/
  | frameWriteResponse (slave : Byte) (addr value crc : Word)
  /-- FRAME_EXCEPTION_RESPONSE `[slave][fc OR 0x80][code][crc]` (R80, R142). -/
  | frameExceptionResponse (slave : Byte) (fc : FuncCode) (code : Byte) (crc : Word)
  deriving DecidableEq, Repr

end Sys2Proof
end

