-- ==== Sys2Proof/Machine/Bits.lean ====
section
/-! DEFINITION. Bit fields and byte order (00_scope.md R7, 20_memory.md R56, 30_encoding.md R71). -/

namespace Sys2Proof

/-- `x[15:8]`, the `xHi` of R56. -/
def hiByte (x : Word) : Byte := x.extractLsb' 8 8

/-- `x[7:0]`, the `xLo` of R56. -/
def loByte (x : Word) : Byte := x.extractLsb' 0 8

/-- `BE16(hi, lo) = zext_16(hi) << 8 | zext_16(lo)` (R7). -/
def be16 (hi lo : Byte) : Word := (hi.setWidth 16 <<< 8) ||| lo.setWidth 16

/-- `OP = CMD[7:0]` (R71). -/
def opField (w : Word) : Byte := loByte w

/-- `IMM8 = CMD[15:8]` (R71). -/
def imm8Field (w : Word) : Byte := hiByte w

/-- `F[i]`, byte `i` of a byte sequence, counting from 0 (R7). Every rule reads below the length; above it the value is
never used. -/
def byteAt (F : List Byte) (i : Nat) : Byte := F.getD i 0#8

/-- The function code byte of a frame: 0x03 or 0x06 (R10). -/
def FuncCode.byte : FuncCode → Byte
  | .readHolding => 0x03#8
  | .writeSingle => 0x06#8

/-- R73: a word is illegal when OP is 0x08 or above, whatever its IMM8, or when OP is one of 0x00, 0x01, 0x03..0x07 and
IMM8 is not 0x00. -/
def illegalWord (w : Word) : Bool :=
  decide (8 ≤ (opField w).toNat) || (decide (opField w ≠ 0x02#8) && decide (imm8Field w ≠ 0x00#8))

/-- A 16-bit field in a frame: high byte first (R56). -/
def wordBytes (x : Word) : List Byte := [hiByte x, loByte x]

/-- The CRC field of a frame: low byte first (R56, R75). -/
def crcBytes (c : Word) : List Byte := [loByte c, hiByte c]

/-- The received CRC field `BE16(F[n-1], F[n-2])` of a frame of length n (R75). -/
def crcField (F : List Byte) : Word := be16 (byteAt F (F.length - 1)) (byteAt F (F.length - 2))

/-- The body `F[0..n-2)` of a frame, which the CRC covers (R74). -/
def frameBody (F : List Byte) : List Byte := F.take (F.length - 2)

/-- The register values of a read response: value k at bytes 3 + 2k and 4 + 2k, for k below `n` (R78, R143). -/
def frameValues (F : List Byte) (n : Nat) : List Word :=
  (List.range n).map fun k => be16 (byteAt F (3 + 2 * k)) (byteAt F (4 + 2 * k))

end Sys2Proof
end

