-- ==== Sys2Proof/Machine/Params.lean ====
section
/-! DEFINITION. The fixed parameters of 00_scope.md R6 (CRC_INIT is in Config.lean; CRC_XOROUT is 0x0000, so no rule
applies it; CRC_ORDER is in `crcBytes`). -/

namespace Sys2Proof

/-- CRC_POLY, the reflected form (R6, R100). -/
abbrev crcPoly : Word := 0xA001#16

/-- COUNT_MIN (R6). -/
abbrev countMin : Nat := 1

/-- COUNT_MAX (R6). -/
abbrev countMax : Nat := 125

/-- BC_MAX = 2 × COUNT_MAX (R6). -/
abbrev bcMax : Nat := 250

/-- MAX_FRAME, the size of TXBUF and RXBUF (R6). -/
abbrev maxFrame : Nat := 256

/-- MIN_RESP_LEN, DEC_RESP's minimum length (R6). -/
abbrev minRespLen : Nat := 5

/-- MIN_FRAME_LEN, DEC_FRAME's minimum length (R6). -/
abbrev minFrameLen : Nat := 4

/-- NVALUES_MAX, the entries of VALUES (R6). -/
abbrev nvaluesMax : Nat := 125

/-- The validity of a read response's byte count: not 0, not odd, not above 250 (R143). -/
def byteCountOk (bc : Byte) : Bool :=
  !(bc == 0#8 || bc.getLsbD 0 || decide (bcMax < bc.toNat))

end Sys2Proof
end

