-- ==== Sys2Proof/Machine/Crc16.lean ====
section
/-! DEFINITION. The CRC-16 function (40_crc.md R100, R101). -/

namespace Sys2Proof

/-- One of the eight rounds of R100: shift right, and exclusive-or with the polynomial if bit 0 was 1. -/
def crcRound (c : Word) : Word :=
  if c.getLsbD 0 then (c >>> 1) ^^^ crcPoly else c >>> 1

/-- `n` rounds of R100. -/
def crcRounds : Nat → Word → Word
  | 0, c => c
  | n + 1, c => crcRounds n (crcRound c)

/-- `crcStep(c, b)`: fold one byte into the CRC (R100). -/
def crcStep (c : Word) (b : Byte) : Word := crcRounds 8 (c ^^^ b.setWidth 16)

/-- `crc16(s)` with the parameter CRC_INIT as an argument; no final exclusive-or (R101). -/
def crc16 (init : Word) (s : List Byte) : Word := s.foldl crcStep init

/-- A frame from its body: the body, then the CRC low byte, then the high byte (R74, R75). -/
def sealFrame (init : Word) (body : List Byte) : List Byte := body ++ crcBytes (crc16 init body)

end Sys2Proof
end

