-- ==== Sys2Proof/WellFormed.lean ====
section
/-! DEFINITION. Well-formed instructions: the operand values their encodings admit. -/

namespace Sys2Proof

/-- The checks. `illegal` carries only a word that selects no command (30_encoding.md R73); a read request's count is
1..125 (R76); a read response holds 1..125 values, so that bc is 2, 4, ..., 250 (R78). Every other operand value is
admitted. Whether a response's CRC field is right is no matter of form: the CRC stage checks it (R140). -/
def Instr.WellFormed : Instr → Bool
  | .nop | .crcInit | .crcByte _ | .encRead | .encWrite | .decResp | .decFrame | .loop => true
  | .illegal w => illegalWord w
  | .frameReadRequest _ _ count => decide (countMin ≤ count.toNat) && decide (count.toNat ≤ countMax)
  | .frameWriteRequest _ _ _ => true
  | .frameReadResponse _ values _ => decide (1 ≤ values.length) && decide (values.length ≤ nvaluesMax)
  | .frameWriteResponse _ _ _ _ => true
  | .frameExceptionResponse _ _ _ _ => true

end Sys2Proof
end

