-- ==== Sys2Proof/Decode.lean ====
section
/-! DEFINITION. Decoding and encoding: command words (30_encoding.md R70 to R73) and RTU frames (R74 to R82). -/

namespace Sys2Proof

/-- Why a byte sequence is none of the frames of R76 to R80. -/
inductive DecodeError where
  /-- The length is none the frame type requires (R76 to R80, R82). -/
  | frameLength
  /-- The function code selects no frame type (R81). -/
  | functionCode
  /-- The byte count is 0, odd or above 250 (R78). -/
  | byteCount
  /-- A read request's count is outside 1..125 (R76). -/
  | countRange
  /-- A request's CRC field is not the CRC of its body (R75). -/
  | requestCrc
  deriving DecidableEq, Repr

/-- The three places an encoding stands: a word written to CMD (R70), a frame the block builds in TXBUF, a frame
presented in RXBUF. A write request and its echo have the same bytes (R79), so the place is part of the encoding. -/
inductive Encoded where
  | command (w : Word)
  | request (bytes : List Byte)
  | response (bytes : List Byte)
  deriving DecidableEq, Repr

/-- One row of the opcode map of R72: a word w is this command when `w & mask = match`. -/
structure OpcodeRow where
  pattern : Word
  mask : Word
  build : Byte → Instr

/-- The opcode map of R72, row by row; `build` is given IMM8. -/
def opcodeMap : List OpcodeRow :=
  [ ⟨0x0000#16, 0xFFFF#16, fun _ => .nop⟩,
    ⟨0x0001#16, 0xFFFF#16, fun _ => .crcInit⟩,
    ⟨0x0002#16, 0x00FF#16, .crcByte⟩,
    ⟨0x0003#16, 0xFFFF#16, fun _ => .encRead⟩,
    ⟨0x0004#16, 0xFFFF#16, fun _ => .encWrite⟩,
    ⟨0x0005#16, 0xFFFF#16, fun _ => .decResp⟩,
    ⟨0x0006#16, 0xFFFF#16, fun _ => .decFrame⟩,
    ⟨0x0007#16, 0xFFFF#16, fun _ => .loop⟩ ]

/-- `Execute(w)`'s decoding (R72): the row that matches, and the illegal word where none does (R73). Total: every
16-bit word has a meaning. -/
def decodeCommand (w : Word) : Instr :=
  match opcodeMap.find? fun r => w &&& r.mask == r.pattern with
  | some r => r.build (imm8Field w)
  | none => .illegal w

/-- A request frame of R76 or R77, read from its eight bytes: the length, the CRC (R75), the function code, and the count
of a read request. -/
def decodeRequest (init : Word) (F : List Byte) : Except DecodeError Instr :=
  if F.length ≠ 8 then .error .frameLength
  else if crcField F ≠ crc16 init (frameBody F) then .error .requestCrc
  else
    let slave := byteAt F 0
    let addr := be16 (byteAt F 2) (byteAt F 3)
    let operand := be16 (byteAt F 4) (byteAt F 5)
    if byteAt F 1 = 0x03#8 then
      if countMin ≤ operand.toNat ∧ operand.toNat ≤ countMax then .ok (.frameReadRequest slave addr operand)
      else .error .countRange
    else if byteAt F 1 = 0x06#8 then .ok (.frameWriteRequest slave addr operand)
    else .error .functionCode

/-- An exception response of R80: exactly five bytes. -/
def decodeException (fc : FuncCode) (F : List Byte) : Except DecodeError Instr :=
  if F.length = 5 then .ok (.frameExceptionResponse (byteAt F 0) fc (byteAt F 2) (crcField F)) else .error .frameLength

/-- A read response of R78: 5 + bc bytes, bc even and 2..250. -/
def decodeReadResponse (F : List Byte) : Except DecodeError Instr :=
  let bc := byteAt F 2
  if !byteCountOk bc then .error .byteCount
  else if F.length = 5 + bc.toNat then .ok (.frameReadResponse (byteAt F 0) (frameValues F (bc.toNat / 2)) (crcField F))
  else .error .frameLength

/-- A write response of R79: eight bytes. -/
def decodeWriteResponse (F : List Byte) : Except DecodeError Instr :=
  if F.length = 8 then
    .ok (.frameWriteResponse (byteAt F 0) (be16 (byteAt F 2) (byteAt F 3)) (be16 (byteAt F 4) (byteAt F 5)) (crcField F))
  else .error .frameLength

/-- A response frame, its type selected by the byte at offset 1 (R81). The CRC field is read, not checked. -/
def decodeResponse (F : List Byte) : Except DecodeError Instr :=
  if F.length < minRespLen ∨ maxFrame < F.length then .error .frameLength
  else if byteAt F 1 = 0x83#8 then decodeException .readHolding F
  else if byteAt F 1 = 0x86#8 then decodeException .writeSingle F
  else if byteAt F 1 = 0x03#8 then decodeReadResponse F
  else if byteAt F 1 = 0x06#8 then decodeWriteResponse F
  else .error .functionCode

/-- The decoder, total on every encoding. `init` is CRC_INIT, which only a request's CRC depends on. -/
def decode (init : Word) : Encoded → Except DecodeError Instr
  | .command w => .ok (decodeCommand w)
  | .request F => decodeRequest init F
  | .response F => decodeResponse F

/-- The body of a request of R76 or R77: slave, function code, address, operand (41_encode.md R120, R121). -/
def requestBody (fc slave : Byte) (addr operand : Word) : List Byte :=
  [slave, fc] ++ wordBytes addr ++ wordBytes operand

/-- The bytes of a read response (R78), with the CRC field as given. -/
def readResponseBytes (slave : Byte) (values : List Word) (crc : Word) : List Byte :=
  [slave, 0x03#8, BitVec.ofNat 8 (2 * values.length)] ++ values.flatMap wordBytes ++ crcBytes crc

/-- The bytes of a write response (R79), with the CRC field as given. -/
def writeResponseBytes (slave : Byte) (addr value crc : Word) : List Byte :=
  requestBody 0x06#8 slave addr value ++ crcBytes crc

/-- The bytes of an exception response (R80), with the CRC field as given. -/
def exceptionResponseBytes (slave : Byte) (fc : FuncCode) (code : Byte) (crc : Word) : List Byte :=
  [slave, fc.byte ||| 0x80#8, code] ++ crcBytes crc

/-- The encoder, row by row of the opcode table. `init` is CRC_INIT. -/
def encode (init : Word) : Instr → Encoded
  | .nop => .command 0x0000#16
  | .crcInit => .command 0x0001#16
  | .crcByte b => .command (be16 b 0x02#8)
  | .encRead => .command 0x0003#16
  | .encWrite => .command 0x0004#16
  | .decResp => .command 0x0005#16
  | .decFrame => .command 0x0006#16
  | .loop => .command 0x0007#16
  | .illegal w => .command w
  | .frameReadRequest slave addr count => .request (sealFrame init (requestBody 0x03#8 slave addr count))
  | .frameWriteRequest slave addr value => .request (sealFrame init (requestBody 0x06#8 slave addr value))
  | .frameReadResponse slave values crc => .response (readResponseBytes slave values crc)
  | .frameWriteResponse slave addr value crc => .response (writeResponseBytes slave addr value crc)
  | .frameExceptionResponse slave fc code crc => .response (exceptionResponseBytes slave fc code crc)

/-- The bytes of a number, the first in its least significant bits: the opcode table's numbering of a frame's bits. -/
def frameBytes (nbits w : Nat) : List Byte := (List.range (nbits / 8)).map fun k => BitVec.ofNat 8 (w >>> (8 * k))

/-- The instruction a table word stands for: up to 16 bits, a command word; more, a frame, first byte first, read as a
request and, where it is none, as a response (log 6: the eight bytes of a write request and of its echo are the same). -/
def decodeTableWord (nbits w : Nat) : Option Instr :=
  if nbits ≤ 16 then some (decodeCommand (BitVec.ofNat 16 w))
  else
    let F := frameBytes nbits w
    match decodeRequest Config.default.crcInit F with
    | .ok i => some i
    | .error _ => (decodeResponse F).toOption

end Sys2Proof
end

