-- ==== Sys2Proof/Machine/State.lean ====
section
/-! DEFINITION. The state of the block (10_state.md R20), the inputs that drive it, and the reasons a step can stop. -/

namespace Sys2Proof.Machine

/-- A register file as plain data: (index, contents) pairs, in one canonical form (`cellsWf`, Machine/Ops.lean): indices
strictly rising and no entry equal to what an unlisted index reads as. -/
abbrev Cells (w : Nat) : Type := List (Nat × BitVec w)

/-- A byte buffer (TXBUF, RXBUF): a list of `Host.Cell`, the key being the buffer's index. -/
abbrev Memory : Type := List Host.Cell

/-- What an unlisted entry reads as: zero, the reset value of every entry (R39, R40, R41). -/
abbrev unlisted (w : Nat) : BitVec w := 0#w

/-- What the outside world does to the block: a host read or write (20_memory.md R52, R53) or the platform's reset
(70_reset_and_hazards.md R230). -/
inductive Input where
  | read (a : PortAddr)
  | write (a : PortAddr) (d : Word)
  | reset
  deriving DecidableEq, Repr

/-- The state. CMD has no storage (R21). `cfg` is the parameter (log 1); `pending` and `returned` are the model's own:
the inputs not yet served, oldest first (log 2), and the words host reads have returned, oldest first (log 3). -/
structure State where
  /-- STATUS (R22). -/
  status : Byte
  /-- ERRFLAGS (R23). -/
  errflags : Byte
  /-- CRC (R24). -/
  crc : Word
  /-- SLAVE (R25). -/
  slave : Byte
  /-- FUNC (R26). -/
  func : Byte
  /-- ADDR (R27). -/
  addr : Word
  /-- OPND (R28). -/
  opnd : Word
  /-- TXLEN (R29). -/
  txlen : Len
  /-- RXLEN (R30). -/
  rxlen : Len
  /-- RX_SLAVE (R31). -/
  rxSlave : Byte
  /-- RX_FUNC (R32). -/
  rxFunc : Byte
  /-- EXC_CODE (R33). -/
  excCode : Byte
  /-- NVALUES (R34). -/
  nvalues : Byte
  /-- RX_ADDR (R35). -/
  rxAddr : Word
  /-- RX_OPND (R36). -/
  rxOpnd : Word
  /-- RX_CRC (R37). -/
  rxCrc : Word
  /-- PLEN (R38). -/
  plen : Byte
  /-- TXBUF[0..255] (R39). -/
  txbuf : Memory
  /-- RXBUF[0..255] (R40). -/
  rxbuf : Memory
  /-- VALUES[0..124] (R41). -/
  values : Cells 16
  /-- CRC_INIT (R6, D5). -/
  cfg : Config
  /-- The inputs the block has not yet served. -/
  pending : List Input
  /-- The words host reads have returned. -/
  returned : List Word
  deriving DecidableEq, Repr

/-- Why the machine stops with a fault. -/
inductive Fault where
  /-- BusError(a): raised by a host read or write of the unmapped port address a (R202, R52, R53). SAFE: the spec says
  that the run faults and that the access changes nothing (log 4). -/
  | busError (a : PortAddr)
  deriving DecidableEq, Repr

/-- Why a step has no meaning. -/
inductive Refusal where
  /-- An instruction without a meaning yet, raised by a refused arm of `exec`. SAFE. No arm is refused. -/
  | notModelled (mnemonic : String)
  deriving DecidableEq, Repr

/-- The state right after reset, for a given parameter (R230, R231): everything 0 but SLAVE = 0x01 and CRC = CRC_INIT. -/
def State.resetWith (cfg : Config) : State where
  status := 0x00#8
  errflags := 0x00#8
  crc := cfg.crcInit
  slave := 0x01#8
  func := 0x00#8
  addr := 0x0000#16
  opnd := 0x0000#16
  txlen := 0#9
  rxlen := 0#9
  rxSlave := 0x00#8
  rxFunc := 0x00#8
  excCode := 0x00#8
  nvalues := 0#8
  rxAddr := 0x0000#16
  rxOpnd := 0x0000#16
  rxCrc := 0x0000#16
  plen := 0#8
  txbuf := []
  rxbuf := []
  values := []
  cfg := cfg
  pending := []
  returned := []

/-- The state right after reset with the default parameter (R231). -/
def State.reset : State := State.resetWith Config.default

end Sys2Proof.Machine
end

