-- ==== Sys2Proof/Machine/Flags.lean ====
section
/-! DEFINITION. STATUS codes, ERRFLAGS bits and every computation on them (10_state.md R22, R23; 60_exceptions.md R200). -/

namespace Sys2Proof.Machine

/-- The outcomes STATUS can name (R22). -/
inductive Status where
  | none
  | ok
  | okData
  | okException
  | okFrame
  | errIllegalCmd
  | errOperand
  | errLength
  | errCrc
  | errSlave
  | errFunction
  | errByteCount
  deriving DecidableEq, Repr

/-- The code of each outcome (R22). -/
def Status.code : Status → Byte
  | .none => 0x00#8
  | .ok => 0x01#8
  | .okData => 0x02#8
  | .okException => 0x03#8
  | .okFrame => 0x04#8
  | .errIllegalCmd => 0x10#8
  | .errOperand => 0x11#8
  | .errLength => 0x12#8
  | .errCrc => 0x13#8
  | .errSlave => 0x14#8
  | .errFunction => 0x15#8
  | .errByteCount => 0x16#8

/-- The ERRFLAGS bit that `finish(code)` sets, as a mask; NONE, OK, OK_DATA and OK_FRAME set no bit (R23). -/
def Status.flag : Status → Byte
  | .errIllegalCmd => 0x01#8
  | .errOperand => 0x02#8
  | .errLength => 0x04#8
  | .errCrc => 0x08#8
  | .errSlave => 0x10#8
  | .errFunction => 0x20#8
  | .errByteCount => 0x40#8
  | .okException => 0x80#8
  | .none | .ok | .okData | .okFrame => 0x00#8

/-- Is `b` a value STATUS may hold (R22)? -/
def statusLegal (b : Byte) : Bool :=
  decide (b.toNat ≤ 0x04) || (decide (0x10 ≤ b.toNat) && decide (b.toNat ≤ 0x16))

/-- `finish(code)` (R200): STATUS takes the code, and the code's ERRFLAGS bit, if it has one, is set. It is all that an
error does: no control is diverted and nothing is saved (R205). -/
def finish (c : Status) (s : State) : State :=
  { s with status := c.code, errflags := s.errflags ||| c.flag }

/-- A host write of d to ERRFLAGS: `ERRFLAGS <- ERRFLAGS & ~d[7:0]` (R23, 20_memory.md R53). -/
def clearErrFlags (d : Word) (s : State) : State :=
  { s with errflags := s.errflags &&& ~~~(d.setWidth 8) }

/-- DOC0's result types that DEC_RESP's outcomes stand for (42_decode.md R145). -/
inductive RespResult where
  | decodedResponse
  | exceptionResponse (code : Byte)
  | protocolError
  | operandFault
  deriving DecidableEq, Repr

/-- The result type DEC_RESP's STATUS and EXC_CODE stand for (R145); no result type for a STATUS that DEC_RESP does not
leave. -/
def respResult (s : State) : Option RespResult :=
  if s.status = Status.okData.code then some .decodedResponse
  else if s.status = Status.okException.code then some (.exceptionResponse s.excCode)
  else if s.status = Status.errOperand.code then some .operandFault
  else if s.status = Status.errLength.code ∨ s.status = Status.errCrc.code ∨ s.status = Status.errSlave.code ∨
      s.status = Status.errFunction.code ∨ s.status = Status.errByteCount.code then some .protocolError
  else Option.none

end Sys2Proof.Machine
end

