-- ==== Sys2Proof/Machine/Ops.lean ====
section
/-! DEFINITION. The named operations: register files, building a request, the CRC stage, DEC_RESP's paths, reset. -/

namespace Sys2Proof.Machine

/-! ### Register files (10_state.md R39 to R41) -/

/-- Entry `i` of a register file. -/
def readCell {w : Nat} : Cells w → Nat → BitVec w
  | [], _ => unlisted w
  | c :: m, i => if c.1 = i then c.2 else readCell m i

/-- Put a listed entry in its place; `m` lists no entry `i`. -/
def placeCell {w : Nat} : Cells w → Nat → BitVec w → Cells w
  | [], i, v => [(i, v)]
  | c :: m, i, v => if i < c.1 then (i, v) :: c :: m else c :: placeCell m i v

/-- Write entry `i`, keeping the canonical form: writing what an unlisted entry reads as removes the entry. -/
def writeCell {w : Nat} (m : Cells w) (i : Nat) (v : BitVec w) : Cells w :=
  let rest := m.filter fun c => c.1 != i
  if v = unlisted w then rest else placeCell rest i v

/-- Write consecutive entries from `i` on. -/
def writeCells {w : Nat} : Cells w → Nat → List (BitVec w) → Cells w
  | m, _, [] => m
  | m, i, v :: vs => writeCells (writeCell m i v) (i + 1) vs

/-- The canonical form from index `lo` on: indices strictly rising, below `size`, no entry equal to an unlisted one. -/
def cellsWfFrom {w : Nat} (size : Nat) : Nat → Cells w → Bool
  | _, [] => true
  | lo, c :: m => decide (lo ≤ c.1) && decide (c.1 < size) && decide (c.2 ≠ unlisted w) && cellsWfFrom size (c.1 + 1) m

/-- The canonical form of a register file of `size` entries. -/
def cellsWf {w : Nat} (size : Nat) (m : Cells w) : Bool := cellsWfFrom size 0 m

/-- The canonical form of a byte buffer: 256 entries (R39, R40). -/
def Memory.wf (m : Memory) : Bool := cellsWf maxFrame m

/-! ### Results -/

/-- `ClearResults()`: every result register is 0 (R42). -/
def clearResults (s : State) : State :=
  { s with
    rxSlave := 0#8, rxFunc := 0#8, excCode := 0#8, nvalues := 0#8, rxAddr := 0#16, rxOpnd := 0#16, rxCrc := 0#16,
    plen := 0#8, values := [] }

/-! ### Encoding a request (41_encode.md) -/

/-- The common part of R120 and R121: the frame in TXBUF[0..7], TXLEN, CRC, FUNC, then `finish(OK)`. -/
def buildRequest (fc slave : Byte) (addr operand : Word) (s : State) : State :=
  let B := requestBody fc slave addr operand
  let c := crc16 s.cfg.crcInit B
  finish .ok { s with txbuf := writeCells s.txbuf 0 (B ++ crcBytes c), txlen := 8#9, crc := c, func := fc }

/-- R120 with its operands given: the count check, then the frame. -/
def buildReadRequest (slave : Byte) (addr count : Word) (s : State) : State :=
  if count.toNat < countMin ∨ countMax < count.toNat then finish .errOperand { s with txlen := 0#9 }
  else buildRequest 0x03#8 slave addr count s

/-- R121 with its operands given. -/
def buildWriteRequest (slave : Byte) (addr value : Word) (s : State) : State :=
  buildRequest 0x06#8 slave addr value s

/-! ### Decoding a frame (42_decode.md) -/

/-- RXBUF[0..RXLEN), the received frame. -/
def received (s : State) : List Byte := (List.range s.rxlen.toNat).map (readCell s.rxbuf)

/-- TXBUF[0..TXLEN), the transmit frame. -/
def transmitted (s : State) : List Byte := (List.range s.txlen.toNat).map (readCell s.txbuf)

/-- `CrcStage(minLen)` on the frame F (R140): the state it leaves, and the error code unless it is `ok`. -/
def crcStage (minLen : Nat) (F : List Byte) (s : State) : State × Option Status :=
  if F.length < minLen ∨ maxFrame < F.length then (s, some .errLength)
  else
    let c := crc16 s.cfg.crcInit (frameBody F)
    let s := { s with crc := c, rxCrc := crcField F }
    if c ≠ s.rxCrc then (s, some .errCrc)
    else
      ({ s with rxSlave := byteAt F 0, rxFunc := byteAt F 1, plen := BitVec.ofNat 8 (F.length - 4) }, Option.none)

/-- `ExceptionPath()` (R142). -/
def exceptionPath (F : List Byte) (s : State) : State :=
  if F.length ≠ 5 then finish .errLength s
  else finish .okException { s with excCode := byteAt F 2 }

/-- `ReadPath()` (R143). -/
def readPath (F : List Byte) (s : State) : State :=
  let bc := byteAt F 2
  if !byteCountOk bc then finish .errByteCount s
  else if F.length ≠ 5 + bc.toNat then finish .errLength s
  else
    finish .okData
      { s with
        values := writeCells s.values 0 (frameValues F (bc.toNat / 2)), nvalues := BitVec.ofNat 8 (bc.toNat / 2) }

/-- `WritePath()` (R144). -/
def writePath (F : List Byte) (s : State) : State :=
  if F.length ≠ 8 then finish .errLength s
  else
    let a := be16 (byteAt F 2) (byteAt F 3)
    let v := be16 (byteAt F 4) (byteAt F 5)
    finish .okData { s with rxAddr := a, rxOpnd := v, values := writeCell s.values 0 v, nvalues := 1#8 }

/-- DEC_RESP after the CRC stage: the slave address, then the function code selects the path (R141). -/
def selectPath (F : List Byte) (s : State) : State :=
  if byteAt F 0 ≠ s.slave then finish .errSlave s
  else if byteAt F 1 = s.func ||| 0x80#8 then exceptionPath F s
  else if byteAt F 1 ≠ s.func then finish .errFunction s
  else if s.func = 0x03#8 then readPath F s
  else writePath F s

/-- DEC_RESP on the frame F (R141): results cleared, the operand check, the CRC stage, the path. -/
def decodeResp (F : List Byte) (s : State) : State :=
  let s := clearResults s
  if s.func ≠ 0x03#8 ∧ s.func ≠ 0x06#8 then finish .errOperand s
  else
    match crcStage minRespLen F s with
    | (s, some r) => finish r s
    | (s, Option.none) => selectPath F s

/-- DEC_FRAME's split of the payload (R150). -/
def splitPayload (F : List Byte) (s : State) : State :=
  let s := if 2 ≤ s.plen.toNat then { s with rxAddr := be16 (byteAt F 2) (byteAt F 3) } else s
  if 4 ≤ s.plen.toNat then { s with rxOpnd := be16 (byteAt F 4) (byteAt F 5) } else s

/-- DEC_FRAME on the frame F (R150). -/
def decodeAnyFrame (F : List Byte) (s : State) : State :=
  match crcStage minFrameLen F (clearResults s) with
  | (s, some r) => finish r s
  | (s, Option.none) => finish .okFrame (splitPayload F s)

/-! ### Loop-back and reset -/

/-- LOOP's copy (43_utility.md R171): RXBUF[i] <- TXBUF[i] for i below TXLEN. The bound 256 matters only for a TXLEN that
no run reaches (R29; log 7). -/
def loopBack (s : State) : State :=
  finish .ok { s with rxbuf := writeCells s.rxbuf 0 ((transmitted s).take maxFrame), rxlen := s.txlen }

/-- The reset event (70_reset_and_hazards.md R230): every register at its reset value. The parameter, the host's pending
inputs and the words already returned are not the block's registers and stay (log 9). -/
def resetBlock (s : State) : State :=
  { State.resetWith s.cfg with pending := s.pending, returned := s.returned }

end Sys2Proof.Machine
end

