-- ==== Sys2Proof/Machine/Crc.lean ====
section
/-! DEFINITION. The CRC commands: CRC_INIT, CRC_BYTE (40_crc.md R102, R103). -/

namespace Sys2Proof.Machine

/-- CRC_INIT (R102): the accumulator takes the parameter CRC_INIT. -/
def execCrcInit (s : State) : Host.Outcome State Fault Refusal :=
  .next (finish .ok { s with crc := s.cfg.crcInit })

/-- CRC_BYTE (R103): fold the data byte into the accumulator. -/
def execCrcByte (imm8 : Byte) (s : State) : Host.Outcome State Fault Refusal :=
  .next (finish .ok { s with crc := crcStep s.crc imm8 })

end Sys2Proof.Machine
end

