-- ==== Sys2Proof/Machine/Decoder.lean ====
section
/-! DEFINITION. The frame decoder: DEC_RESP, DEC_FRAME and the response frames (42_decode.md; 30_encoding.md R78 to R80). -/

namespace Sys2Proof.Machine

/-- DEC_RESP (R141): "`bytes` is RXBUF[0..RXLEN)". -/
def execDecResp (s : State) : Host.Outcome State Fault Refusal :=
  .next (decodeResp (received s) s)

/-- DEC_FRAME (R150). -/
def execDecFrame (s : State) : Host.Outcome State Fault Refusal :=
  .next (decodeAnyFrame (received s) s)

/-- FRAME_READ_RESPONSE (R143): DEC_RESP decodes this frame (log 5). -/
def execFrameReadResponse (slave : Byte) (values : List Word) (crc : Word) (s : State) :
    Host.Outcome State Fault Refusal :=
  .next (decodeResp (readResponseBytes slave values crc) s)

/-- FRAME_WRITE_RESPONSE (R144): DEC_RESP decodes this frame (log 5). -/
def execFrameWriteResponse (slave : Byte) (addr value crc : Word) (s : State) : Host.Outcome State Fault Refusal :=
  .next (decodeResp (writeResponseBytes slave addr value crc) s)

/-- FRAME_EXCEPTION_RESPONSE (R142): DEC_RESP decodes this frame (log 5). -/
def execFrameExceptionResponse (slave : Byte) (fc : FuncCode) (code : Byte) (crc : Word) (s : State) :
    Host.Outcome State Fault Refusal :=
  .next (decodeResp (exceptionResponseBytes slave fc code crc) s)

end Sys2Proof.Machine
end

