-- ==== Sys2Proof/Machine/Encoder.lean ====
section
/-! DEFINITION. The request encoder: ENC_READ, ENC_WRITE and the request frames (41_encode.md; 30_encoding.md R76, R77). -/

namespace Sys2Proof.Machine

/-- ENC_READ (R120): "the three arguments are the registers SLAVE, ADDR and OPND". -/
def execEncRead (s : State) : Host.Outcome State Fault Refusal :=
  .next (buildReadRequest s.slave s.addr s.opnd s)

/-- ENC_WRITE (R121). -/
def execEncWrite (s : State) : Host.Outcome State Fault Refusal :=
  .next (buildWriteRequest s.slave s.addr s.opnd s)

/-- FRAME_READ_REQUEST (R76, built as R120 says): the block builds this frame (log 5). -/
def execFrameReadRequest (slave : Byte) (addr count : Word) (s : State) : Host.Outcome State Fault Refusal :=
  .next (buildReadRequest slave addr count s)

/-- FRAME_WRITE_REQUEST (R77, built as R121 says): the block builds this frame (log 5). -/
def execFrameWriteRequest (slave : Byte) (addr value : Word) (s : State) : Host.Outcome State Fault Refusal :=
  .next (buildWriteRequest slave addr value s)

end Sys2Proof.Machine
end

