-- ==== Sys2Proof/Machine/Utility.lean ====
section
/-! DEFINITION. NOP, LOOP and the illegal command words (43_utility.md R170 to R172). -/

namespace Sys2Proof.Machine

/-- NOP (R170): no effect; it does not call `finish`. -/
def execNop (s : State) : Host.Outcome State Fault Refusal := .next s

/-- LOOP (R171): the transmit frame copied into the receive buffer. -/
def execLoop (s : State) : Host.Outcome State Fault Refusal := .next (loopBack s)

/-- IllegalCommand (R172), whatever the illegal word. -/
def execIllegal (_w : Word) (s : State) : Host.Outcome State Fault Refusal := .next (finish .errIllegalCmd s)

end Sys2Proof.Machine
end

