-- ==== Sys2Proof/Machine/Dispatch.lean ====
section
/-! DEFINITION. The dispatch: one arm per constructor of Instr, each one call of its meaning. -/

namespace Sys2Proof.Machine

def exec (i : Instr) (s : State) : Host.Outcome State Fault Refusal :=
  match i with
  | .nop => Sys2Proof.Machine.execNop s
  | .crcInit => Sys2Proof.Machine.execCrcInit s
  | .crcByte imm8 => Sys2Proof.Machine.execCrcByte imm8 s
  | .encRead => Sys2Proof.Machine.execEncRead s
  | .encWrite => Sys2Proof.Machine.execEncWrite s
  | .decResp => Sys2Proof.Machine.execDecResp s
  | .decFrame => Sys2Proof.Machine.execDecFrame s
  | .loop => Sys2Proof.Machine.execLoop s
  | .illegal w => Sys2Proof.Machine.execIllegal w s
  | .frameReadRequest slave addr count => Sys2Proof.Machine.execFrameReadRequest slave addr count s
  | .frameWriteRequest slave addr value => Sys2Proof.Machine.execFrameWriteRequest slave addr value s
  | .frameReadResponse slave values crc => Sys2Proof.Machine.execFrameReadResponse slave values crc s
  | .frameWriteResponse slave addr value crc => Sys2Proof.Machine.execFrameWriteResponse slave addr value crc s
  | .frameExceptionResponse slave fc code crc => Sys2Proof.Machine.execFrameExceptionResponse slave fc code crc s

end Sys2Proof.Machine
end

