-- ==== Sys2Proof/Machine/Operands.lean ====
section
/-! DEFINITION. The registers as the host port names them: the address map, access types, reads and writes
(20_memory.md R51 to R53). -/

namespace Sys2Proof.Machine

/-- The registers of the address map (R51). -/
inductive PortReg where
  | cmd | status | errflags | crc | slave | func | addr | opnd | txlen | rxlen
  | rxSlave | rxFunc | excCode | nvalues | rxAddr | rxOpnd | rxCrc | plen
  | txbuf (i : Nat)
  | rxbuf (i : Nat)
  | values (i : Nat)
  deriving DecidableEq, Repr

/-- The access types of 10_state.md's preamble. -/
inductive Access where
  | rw | ro | wo | w1c
  deriving DecidableEq, Repr

/-- The address map: the register at a port address, none where it is unmapped (R51). -/
def portReg (a : PortAddr) : Option PortReg :=
  match a.toNat with
  | 0x000 => some .cmd
  | 0x001 => some .status
  | 0x002 => some .errflags
  | 0x003 => some .crc
  | 0x004 => some .slave
  | 0x005 => some .func
  | 0x006 => some .addr
  | 0x007 => some .opnd
  | 0x008 => some .txlen
  | 0x009 => some .rxlen
  | 0x00A => some .rxSlave
  | 0x00B => some .rxFunc
  | 0x00C => some .excCode
  | 0x00D => some .nvalues
  | 0x00E => some .rxAddr
  | 0x00F => some .rxOpnd
  | 0x010 => some .rxCrc
  | 0x011 => some .plen
  | n =>
    if 0x100 ≤ n ∧ n ≤ 0x1FF then some (.txbuf (n - 0x100))
    else if 0x200 ≤ n ∧ n ≤ 0x2FF then some (.rxbuf (n - 0x200))
    else if 0x300 ≤ n ∧ n ≤ 0x37C then some (.values (n - 0x300))
    else none

/-- The port address of a register (R51), for the host-program notation of 30_encoding.md R83. -/
def portAddr : PortReg → PortAddr
  | .cmd => 0x000#12
  | .status => 0x001#12
  | .errflags => 0x002#12
  | .crc => 0x003#12
  | .slave => 0x004#12
  | .func => 0x005#12
  | .addr => 0x006#12
  | .opnd => 0x007#12
  | .txlen => 0x008#12
  | .rxlen => 0x009#12
  | .rxSlave => 0x00A#12
  | .rxFunc => 0x00B#12
  | .excCode => 0x00C#12
  | .nvalues => 0x00D#12
  | .rxAddr => 0x00E#12
  | .rxOpnd => 0x00F#12
  | .rxCrc => 0x010#12
  | .plen => 0x011#12
  | .txbuf i => BitVec.ofNat 12 (0x100 + i)
  | .rxbuf i => BitVec.ofNat 12 (0x200 + i)
  | .values i => BitVec.ofNat 12 (0x300 + i)

/-- The access column of R51. -/
def access : PortReg → Access
  | .cmd => .wo
  | .errflags => .w1c
  | .crc | .slave | .func | .addr | .opnd | .rxlen | .rxbuf _ => .rw
  | .status | .txlen | .rxSlave | .rxFunc | .excCode | .nvalues | .rxAddr | .rxOpnd | .rxCrc | .plen
  | .txbuf _ | .values _ => .ro

/-- The width column of R51. -/
def regWidth : PortReg → Nat
  | .cmd | .crc | .addr | .opnd | .rxAddr | .rxOpnd | .rxCrc | .values _ => 16
  | .txlen | .rxlen => 9
  | .status | .errflags | .slave | .func | .rxSlave | .rxFunc | .excCode | .nvalues | .plen
  | .txbuf _ | .rxbuf _ => 8

/-- What a host read of a mapped register returns: CMD reads 0, every other register is zero-extended (R52). -/
def readReg (r : PortReg) (s : State) : Word :=
  match r with
  | .cmd => 0x0000#16
  | .status => s.status.setWidth 16
  | .errflags => s.errflags.setWidth 16
  | .crc => s.crc
  | .slave => s.slave.setWidth 16
  | .func => s.func.setWidth 16
  | .addr => s.addr
  | .opnd => s.opnd
  | .txlen => s.txlen.setWidth 16
  | .rxlen => s.rxlen.setWidth 16
  | .rxSlave => s.rxSlave.setWidth 16
  | .rxFunc => s.rxFunc.setWidth 16
  | .excCode => s.excCode.setWidth 16
  | .nvalues => s.nvalues.setWidth 16
  | .rxAddr => s.rxAddr
  | .rxOpnd => s.rxOpnd
  | .rxCrc => s.rxCrc
  | .plen => s.plen.setWidth 16
  | .txbuf i => (readCell s.txbuf i).setWidth 16
  | .rxbuf i => (readCell s.rxbuf i).setWidth 16
  | .values i => readCell s.values i

/-- A host write of d to an RW register: `d[width-1:0]`, higher bits ignored (R53). Only RW registers are written so;
the others stay (`access` sends no other register here). -/
def writeReg (r : PortReg) (d : Word) (s : State) : State :=
  match r with
  | .crc => { s with crc := d }
  | .slave => { s with slave := d.setWidth 8 }
  | .func => { s with func := d.setWidth 8 }
  | .addr => { s with addr := d }
  | .opnd => { s with opnd := d }
  | .rxlen => { s with rxlen := d.setWidth 9 }
  | .rxbuf i => { s with rxbuf := writeCell s.rxbuf i (d.setWidth 8) }
  | .cmd | .status | .errflags | .txlen | .rxSlave | .rxFunc | .excCode | .nvalues | .rxAddr | .rxOpnd | .rxCrc | .plen
  | .txbuf _ | .values _ => s

end Sys2Proof.Machine
end

