-- ==== Sys2Proof/Machine/Port.lean ====
section
/-! DEFINITION. The host port: HostRead, HostWrite, the reset event, and presenting a frame (20_memory.md R52, R53;
70_reset_and_hazards.md R230). -/

namespace Sys2Proof.Machine

/-- `HostRead(a)` (R52): BusError where a is unmapped; else the word is returned to the host, and nothing of the block
changes. -/
def hostRead (a : PortAddr) (s : State) : Host.Outcome State Fault Refusal :=
  match portReg a with
  | none => .fault (.busError a)
  | some r => .next { s with returned := s.returned ++ [readReg r s] }

/-- `HostWrite(a, d)` (R53): BusError where a is unmapped; else by the register's access type. -/
def hostWrite (a : PortAddr) (d : Word) (s : State) : Host.Outcome State Fault Refusal :=
  match portReg a with
  | none => .fault (.busError a)
  | some r =>
    match access r with
    | .wo => exec (decodeCommand d) s
    | .w1c => .next (clearErrFlags d s)
    | .rw => .next (writeReg r d s)
    | .ro => .next s

/-- One input served. -/
def acceptInput (x : Input) (s : State) : Host.Outcome State Fault Refusal :=
  match x with
  | .read a => hostRead a s
  | .write a d => hostWrite a d s
  | .reset => .next (resetBlock s)

/-- The oldest pending input is served, to its end, before the next (R59). With none pending the block waits: it "never
steps on its own" (60_exceptions.md R207; log 2). -/
def serveNext (s : State) : Host.Outcome State Fault Refusal :=
  match s.pending with
  | [] => .next s
  | x :: rest => acceptInput x { s with pending := rest }

/-- A command word presented: the host's next access writes it to CMD. -/
def presentWord (w : Word) (s : State) : State :=
  { s with pending := .write 0x000#12 w :: s.pending }

/-- A frame presented so that the next step runs it (log 6): a request's operands in SLAVE, ADDR and OPND and its encoder
command written next; any other frame in RXBUF with its length in RXLEN and DEC_RESP written next. -/
def presentFrame (F : List Byte) (s : State) : State :=
  match decodeRequest s.cfg.crcInit F with
  | .ok (.frameReadRequest slave addr count) =>
    presentWord 0x0003#16 { s with slave := slave, addr := addr, opnd := count }
  | .ok (.frameWriteRequest slave addr value) =>
    presentWord 0x0004#16 { s with slave := slave, addr := addr, opnd := value }
  | _ => presentWord 0x0005#16 { s with rxbuf := writeCells s.rxbuf 0 F, rxlen := BitVec.ofNat 9 F.length }

end Sys2Proof.Machine
end

