-- ==== Sys2Proof/Machine/Step.lean ====
section
/-! DEFINITION. One step, and where the next instruction stands. -/

namespace Sys2Proof.Machine

/-- One step: the oldest pending input is served (20_memory.md R59, 00_scope.md R9). -/
def step (s : State) : Host.Outcome State Fault Refusal := serveNext s

/-- `s` with the table word `w` presented, so that the very next step runs it: a command word (up to 16 bits) as the
host's next write to CMD, a frame as `presentFrame` says (log 6). -/
def State.withFetchWord (s : State) (nbits w : Nat) : State :=
  if nbits ≤ 16 then presentWord (BitVec.ofNat 16 w) s else presentFrame (frameBytes nbits w) s

end Sys2Proof.Machine
end

