-- ==== Sys2Proof/Machine/HostProgram.lean ====
section
/-! DEFINITION. The host-program notation and its pseudo-instructions as lists of inputs (30_encoding.md R83, R84). -/

namespace Sys2Proof.Machine

/-- `W <reg>, <value>` (R83). -/
def lineW (r : PortReg) (v : Word) : Input := .write (portAddr r) v

/-- `R <reg>` (R83). -/
def lineR (r : PortReg) : Input := .read (portAddr r)

/-- `C <MNEMONIC>`: `W CMD, <command word>` (R83). -/
def lineC (w : Word) : Input := lineW .cmd w

/-- `C CRC_BYTE, <b>`: `W CMD, (b << 8) | 0x02` (R83). -/
def lineCrcByte (b : Byte) : Input := lineC (be16 b 0x02#8)

/-- The pseudo-instructions of R84. -/
inductive Pseudo where
  | recv (bytes : List Byte)
  | clrErr
  | stream (bytes : List Byte)
  | readReq (slave addr count : Word)
  | writeReq (slave addr value : Word)
  deriving DecidableEq, Repr

/-- `W RXBUF[i], b0`, `W RXBUF[i+1], b1`, … (R84). -/
def recvLines : Nat → List Byte → List Input
  | _, [] => []
  | i, b :: bs => lineW (.rxbuf i) (b.setWidth 16) :: recvLines (i + 1) bs

/-- The exact expansion of each (R84). -/
def Pseudo.expand : Pseudo → List Input
  | .recv bytes => recvLines 0 bytes ++ [lineW .rxlen (BitVec.ofNat 16 bytes.length)]
  | .clrErr => [lineW .errflags 0x00FF#16]
  | .stream bytes => bytes.map lineCrcByte
  | .readReq slave addr count => [lineW .slave slave, lineW .addr addr, lineW .opnd count, lineC 0x0003#16]
  | .writeReq slave addr value => [lineW .slave slave, lineW .addr addr, lineW .opnd value, lineC 0x0004#16]

/-- Instructions run one after another, stopping at the first that has no next state. -/
def execAll : List Instr → State → Host.Outcome State Fault Refusal
  | [], s => .next s
  | i :: is, s =>
    match exec i s with
    | .next t => execAll is t
    | .fault r => .fault r
    | .refused r => .refused r

end Sys2Proof.Machine
end

