-- ==== Sys2Proof/Safety.lean ====
section
/-! DEFINITION. What counts as a safe run, and the invariant of the reachable states. -/

namespace Sys2Proof.Machine

/-- The unmapped port addresses: 0x012 to 0x0FF and 0x37D to 0xFFF (20_memory.md R51). -/
def Unmapped (a : PortAddr) : Prop := (0x012 ≤ a.toNat ∧ a.toNat ≤ 0x0FF) ∨ 0x37D ≤ a.toNat

/-- An input that cannot raise BusError: reset, or an access to a mapped address. -/
def Input.mapped : Input → Bool
  | .read a | .write a _ => (portReg a).isSome
  | .reset => true

/-- A host whose pending accesses are all mapped: the safe runs are the runs of such hosts (60_exceptions.md R202). -/
def State.AllMapped (s : State) : Bool := s.pending.all Input.mapped

/-- What every run from reset keeps. -/
structure State.Inv (s : State) : Prop where
  /-- TXBUF is in its canonical form (256 entries, R39). -/
  txWf : Memory.wf s.txbuf = true
  /-- RXBUF is in its canonical form (256 entries, R40). -/
  rxWf : Memory.wf s.rxbuf = true
  /-- VALUES is in its canonical form (125 entries, R41). -/
  valuesWf : cellsWf nvaluesMax s.values = true
  /-- "Legal values, and no other value ever appears" (R22). -/
  statusLegal : statusLegal s.status = true
  /-- TXLEN: "Its only values are 0 and 8" (R29). -/
  txlenLegal : s.txlen = 0#9 ∨ s.txlen = 8#9
  /-- NVALUES: "values 0..125" (R34). -/
  nvaluesLe : s.nvalues.toNat ≤ 125
  /-- PLEN: "values 0..252" (R38). -/
  plenLe : s.plen.toNat ≤ 252
  /-- `VALUES[i] = 0` for every i ≥ NVALUES (R41). -/
  valuesBeyond : ∀ i, s.nvalues.toNat ≤ i → readCell s.values i = 0#16
  /-- No command writes TXBUF[8..255] (R39). -/
  txTail : ∀ i, 8 ≤ i → readCell s.txbuf i = 0#8
  /-- A transmit frame marked valid by TXLEN = 8 is a request of R76 or R77, its CRC right (R75). -/
  txFrame : s.txlen = 8#9 → ∃ i, decodeRequest s.cfg.crcInit (transmitted s) = .ok i
  /-- "an exception never populates a value" (R142): no exception code beside extracted values. -/
  noValueWithException : s.excCode = 0#8 ∨ s.nvalues = 0#8

/-- The received frame's CRC field is the CRC of its body (R75, 42_decode.md R140). -/
def CrcGood (s : State) : Prop := crc16 s.cfg.crcInit (frameBody (received s)) = crcField (received s)

/-- The state a decoder has once its frame passed the CRC stage: results cleared, then CRC, RX_CRC, RX_SLAVE, RX_FUNC and
PLEN of the received frame (R140, R42). -/
def passedCrcStage (s : State) : State :=
  { clearResults s with
    crc := crcField (received s), rxCrc := crcField (received s), rxSlave := byteAt (received s) 0,
    rxFunc := byteAt (received s) 1, plen := BitVec.ofNat 8 (s.rxlen.toNat - 4) }

/-- FUNC names a function code DEC_RESP accepts (10_state.md R26). -/
def FuncValid (s : State) : Prop := s.func = 0x03#8 ∨ s.func = 0x06#8

/-- The code of the first check that fails, in order; `done` if none does (60_exceptions.md R203). -/
def firstCode : List (Prop × Byte) → Byte → Byte → Prop
  | [], done, code => code = done
  | (failed, c) :: rest, done, code => (failed ∧ code = c) ∨ (¬failed ∧ firstCode rest done code)

end Sys2Proof.Machine
end

