-- ==== Sys2Proof/Certificates/Slice0/Obligations.lean ====
section
/-! DEFINITION. The statements for the provers, one `Obligations.<Name>` each. -/

open Sys2Proof Sys2Proof.Machine

/-! ### Reset -/

/-- R230: reset sets every register to its reset value, whatever the state before it; CRC takes the parameter CRC_INIT. The
host's pending inputs and the words returned to it are no registers of the block and stay (log 9). -/
def Obligations.ResetSetsEveryRegister : Prop :=
  ∀ (s : State) (rest : List Input), s.pending = .reset :: rest →
    step s = .next
      { status := 0x00#8, errflags := 0x00#8, crc := s.cfg.crcInit, slave := 0x01#8, func := 0x00#8, addr := 0x0000#16,
        opnd := 0x0000#16, txlen := 0#9, rxlen := 0#9, rxSlave := 0x00#8, rxFunc := 0x00#8, excCode := 0x00#8,
        nvalues := 0#8, rxAddr := 0x0000#16, rxOpnd := 0x0000#16, rxCrc := 0x0000#16, plen := 0#8, txbuf := [],
        rxbuf := [], values := [], cfg := s.cfg, pending := rest, returned := s.returned }

/-! ### Steps and the host port -/

/-- R21: a host write of w to CMD performs the command w, fields OP = w[7:0] and IMM8 = w[15:8], in that one step; a read
of CMD returns 0x0000 and has no effect. (`pending` and `returned` are the model's host side, logs 2 and 3.) -/
def Obligations.CommandRegisterPerformsTheWord : Prop :=
  ∀ (s : State) (rest : List Input),
    (∀ w : Word, s.pending = .write 0x000#12 w :: rest →
      step s = exec (decodeCommand w) { s with pending := rest } ∧
      opField w = w.extractLsb' 0 8 ∧ imm8Field w = w.extractLsb' 8 8) ∧
    (s.pending = .read 0x000#12 :: rest →
      step s = .next { s with pending := rest, returned := s.returned ++ [0x0000#16] })

/-- R51: the address map, address by address: register, access type and width, and the unmapped ranges; no register reads
beyond its width. -/
def Obligations.AddressMapIsTheTable : Prop :=
  (∀ e ∈ ([ (0x000#12, .cmd, .wo, 16), (0x001#12, .status, .ro, 8), (0x002#12, .errflags, .w1c, 8),
      (0x003#12, .crc, .rw, 16), (0x004#12, .slave, .rw, 8), (0x005#12, .func, .rw, 8), (0x006#12, .addr, .rw, 16),
      (0x007#12, .opnd, .rw, 16), (0x008#12, .txlen, .ro, 9), (0x009#12, .rxlen, .rw, 9), (0x00A#12, .rxSlave, .ro, 8),
      (0x00B#12, .rxFunc, .ro, 8), (0x00C#12, .excCode, .ro, 8), (0x00D#12, .nvalues, .ro, 8),
      (0x00E#12, .rxAddr, .ro, 16), (0x00F#12, .rxOpnd, .ro, 16), (0x010#12, .rxCrc, .ro, 16),
      (0x011#12, .plen, .ro, 8) ] : List (PortAddr × PortReg × Access × Nat)),
    portReg e.1 = some e.2.1 ∧ access e.2.1 = e.2.2.1 ∧ regWidth e.2.1 = e.2.2.2) ∧
  (∀ a : PortAddr, 0x100 ≤ a.toNat → a.toNat ≤ 0x1FF → portReg a = some (.txbuf (a.toNat - 0x100))) ∧
  (∀ a : PortAddr, 0x200 ≤ a.toNat → a.toNat ≤ 0x2FF → portReg a = some (.rxbuf (a.toNat - 0x200))) ∧
  (∀ a : PortAddr, 0x300 ≤ a.toNat → a.toNat ≤ 0x37C → portReg a = some (.values (a.toNat - 0x300))) ∧
  (∀ i, access (.txbuf i) = .ro ∧ regWidth (.txbuf i) = 8 ∧ access (.rxbuf i) = .rw ∧ regWidth (.rxbuf i) = 8 ∧
    access (.values i) = .ro ∧ regWidth (.values i) = 16) ∧
  (∀ a : PortAddr, portReg a = none ↔ (0x012 ≤ a.toNat ∧ a.toNat ≤ 0x0FF) ∨ 0x37D ≤ a.toNat) ∧
  (∀ (r : PortReg) (s : State), (readReg r s).toNat < 2 ^ regWidth r)

/-- R52: HostRead at every address: BusError where it is unmapped, 0x0000 for CMD, else the register zero-extended; no
state of the block changes (only the host side: the input is taken and the word returned). -/
def Obligations.HostReadReturnsTheRegister : Prop :=
  ∀ (s : State) (a : PortAddr) (rest : List Input), s.pending = .read a :: rest →
    let back : Word → Host.Outcome State Fault Refusal := fun v =>
      .next { s with pending := rest, returned := s.returned ++ [v] }
    (a = 0x000#12 → step s = back 0x0000#16) ∧
    (a = 0x001#12 → step s = back (s.status.setWidth 16)) ∧
    (a = 0x002#12 → step s = back (s.errflags.setWidth 16)) ∧
    (a = 0x003#12 → step s = back s.crc) ∧
    (a = 0x004#12 → step s = back (s.slave.setWidth 16)) ∧
    (a = 0x005#12 → step s = back (s.func.setWidth 16)) ∧
    (a = 0x006#12 → step s = back s.addr) ∧
    (a = 0x007#12 → step s = back s.opnd) ∧
    (a = 0x008#12 → step s = back (s.txlen.setWidth 16)) ∧
    (a = 0x009#12 → step s = back (s.rxlen.setWidth 16)) ∧
    (a = 0x00A#12 → step s = back (s.rxSlave.setWidth 16)) ∧
    (a = 0x00B#12 → step s = back (s.rxFunc.setWidth 16)) ∧
    (a = 0x00C#12 → step s = back (s.excCode.setWidth 16)) ∧
    (a = 0x00D#12 → step s = back (s.nvalues.setWidth 16)) ∧
    (a = 0x00E#12 → step s = back s.rxAddr) ∧
    (a = 0x00F#12 → step s = back s.rxOpnd) ∧
    (a = 0x010#12 → step s = back s.rxCrc) ∧
    (a = 0x011#12 → step s = back (s.plen.setWidth 16)) ∧
    (0x100 ≤ a.toNat → a.toNat ≤ 0x1FF → step s = back ((readCell s.txbuf (a.toNat - 0x100)).setWidth 16)) ∧
    (0x200 ≤ a.toNat → a.toNat ≤ 0x2FF → step s = back ((readCell s.rxbuf (a.toNat - 0x200)).setWidth 16)) ∧
    (0x300 ≤ a.toNat → a.toNat ≤ 0x37C → step s = back (readCell s.values (a.toNat - 0x300))) ∧
    (Unmapped a → step s = .fault (.busError a))

/-- R53: HostWrite at every address: BusError where it is unmapped, the command for CMD, the written ones cleared for
ERRFLAGS, the low bits stored for an RW register, no effect for an RO register. -/
def Obligations.HostWriteActsByAccessType : Prop :=
  ∀ (s : State) (a : PortAddr) (d : Word) (rest : List Input), s.pending = .write a d :: rest →
    let u : State := { s with pending := rest }
    (a = 0x000#12 → step s = exec (decodeCommand d) u) ∧
    (a = 0x002#12 → step s = .next { u with errflags := s.errflags &&& ~~~(d.extractLsb' 0 8) }) ∧
    (a = 0x003#12 → step s = .next { u with crc := d }) ∧
    (a = 0x004#12 → step s = .next { u with slave := d.extractLsb' 0 8 }) ∧
    (a = 0x005#12 → step s = .next { u with func := d.extractLsb' 0 8 }) ∧
    (a = 0x006#12 → step s = .next { u with addr := d }) ∧
    (a = 0x007#12 → step s = .next { u with opnd := d }) ∧
    (a = 0x009#12 → step s = .next { u with rxlen := d.extractLsb' 0 9 }) ∧
    (0x200 ≤ a.toNat → a.toNat ≤ 0x2FF →
      ∃ t, step s = .next t ∧ t = { u with rxbuf := t.rxbuf } ∧
        readCell t.rxbuf (a.toNat - 0x200) = d.extractLsb' 0 8 ∧
        ∀ j, j ≠ a.toNat - 0x200 → readCell t.rxbuf j = readCell s.rxbuf j) ∧
    (a = 0x001#12 ∨ a = 0x008#12 ∨ (0x00A ≤ a.toNat ∧ a.toNat ≤ 0x011) ∨ (0x100 ≤ a.toNat ∧ a.toNat ≤ 0x1FF) ∨
        (0x300 ≤ a.toNat ∧ a.toNat ≤ 0x37C) → step s = .next u) ∧
    (Unmapped a → step s = .fault (.busError a))

/-- R58: every mapped address is accessible in every state, and the only access fault is BusError on an unmapped address:
a step faults exactly when the access it serves is to an unmapped address, with that address, and no step is refused. -/
def Obligations.OnlyUnmappedAccessFaults : Prop :=
  ∀ s : State,
    (∀ r : Fault, step s = .fault r ↔
      ∃ a rest, (s.pending = .read a :: rest ∨ ∃ d, s.pending = .write a d :: rest) ∧ Unmapped a ∧ r = .busError a) ∧
    (∀ r : Refusal, step s ≠ .refused r)

/-- A host that keeps to mapped addresses is never stopped, however long it runs (60_exceptions.md section 1: BusError is a
fault of the host program; log 4). -/
def Obligations.MappedHostNeverStops : Prop :=
  ∀ (n : Nat) (s : State), s.AllMapped = true →
    ∃ t : State, Host.Core.run Sys2Proof.core n s = .next t ∧ t.AllMapped = true

/-- 60_exceptions.md section 3: an ERRFLAGS bit is cleared only by a host write of 1 to it, or by reset. -/
def Obligations.ErrFlagsClearedOnlyByHostOrReset : Prop :=
  ∀ (s t : State) (k : Nat), step s = .next t → s.errflags.getLsbD k = true → t.errflags.getLsbD k = false →
    (∃ rest, s.pending = .reset :: rest) ∨
    (∃ d rest, s.pending = .write 0x002#12 d :: rest ∧ d.getLsbD k = true)

/-- 10_state.md section 2: STATUS is written only by `finish`, that is by a command other than NOP, or by reset. -/
def Obligations.StatusWrittenOnlyByCommandsAndReset : Prop :=
  ∀ s t : State, step s = .next t → t.status ≠ s.status →
    (∃ rest, s.pending = .reset :: rest) ∨
    (∃ w rest, s.pending = .write 0x000#12 w :: rest ∧ w ≠ 0x0000#16)

/-! ### Flags -/

/-- 60_exceptions.md section 1: what `finish` records for each code, and that every instruction but NOP ends with it. For the
nine command words the second part is the spec's; for the five frame constructors it rests on the model's choice of log 5. -/
def Obligations.FinishRecordsItsCode : Prop :=
  (∀ s : State,
    finish .ok s = { s with status := 0x01#8 } ∧
    finish .okData s = { s with status := 0x02#8 } ∧
    finish .okException s = { s with status := 0x03#8, errflags := s.errflags ||| 0x80#8 } ∧
    finish .okFrame s = { s with status := 0x04#8 } ∧
    finish .errIllegalCmd s = { s with status := 0x10#8, errflags := s.errflags ||| 0x01#8 } ∧
    finish .errOperand s = { s with status := 0x11#8, errflags := s.errflags ||| 0x02#8 } ∧
    finish .errLength s = { s with status := 0x12#8, errflags := s.errflags ||| 0x04#8 } ∧
    finish .errCrc s = { s with status := 0x13#8, errflags := s.errflags ||| 0x08#8 } ∧
    finish .errSlave s = { s with status := 0x14#8, errflags := s.errflags ||| 0x10#8 } ∧
    finish .errFunction s = { s with status := 0x15#8, errflags := s.errflags ||| 0x20#8 } ∧
    finish .errByteCount s = { s with status := 0x16#8, errflags := s.errflags ||| 0x40#8 }) ∧
  (∀ (i : Instr) (s t : State), i ≠ .nop → exec i s = .next t →
    ∃ (c : Status) (u : State), c ≠ .none ∧ u.errflags = s.errflags ∧ t = finish c u)

/-- Every instruction completes in every state (70_reset_and_hazards.md section 2: "every command is defined in every
state"; for the five frame constructors by the model's choice of log 5). -/
def Obligations.EveryInstructionCompletes : Prop :=
  ∀ (i : Instr) (s : State), ∃ t, exec i s = .next t

/-- No instruction touches the parameter, the host's pending inputs or the words returned to it (00_scope.md section 3;
logs 1, 2, 3; for the five frame constructors by the model's choice of log 5). -/
def Obligations.InstructionsLeaveTheHostSide : Prop :=
  ∀ (i : Instr) (s t : State), exec i s = .next t →
    t.cfg = s.cfg ∧ t.pending = s.pending ∧ t.returned = s.returned

/-! ### Decoding and encoding -/

/-- R72: `Execute(w)`'s decoding of every 16-bit word. -/
def Obligations.CommandWordDecodesByTheMap : Prop :=
  ∀ w : Word,
    (opField w = 0x02#8 → decodeCommand w = .crcByte (imm8Field w)) ∧
    (opField w = 0x00#8 → imm8Field w = 0x00#8 → decodeCommand w = .nop) ∧
    (opField w = 0x01#8 → imm8Field w = 0x00#8 → decodeCommand w = .crcInit) ∧
    (opField w = 0x03#8 → imm8Field w = 0x00#8 → decodeCommand w = .encRead) ∧
    (opField w = 0x04#8 → imm8Field w = 0x00#8 → decodeCommand w = .encWrite) ∧
    (opField w = 0x05#8 → imm8Field w = 0x00#8 → decodeCommand w = .decResp) ∧
    (opField w = 0x06#8 → imm8Field w = 0x00#8 → decodeCommand w = .decFrame) ∧
    (opField w = 0x07#8 → imm8Field w = 0x00#8 → decodeCommand w = .loop) ∧
    (8 ≤ (opField w).toNat ∨ (opField w ≠ 0x02#8 ∧ imm8Field w ≠ 0x00#8) → decodeCommand w = .illegal w)

/-- A few words and frames, written out from the spec's encodings (30_encoding.md R72, R76 to R80), decode to what they
stand for. -/
def Obligations.SampleEncodingsDecode : Prop :=
  decodeCommand 0b0000000000000000#16 = .nop ∧
  decodeCommand 0b1010010100000010#16 = .crcByte 0xA5#8 ∧
  decodeCommand 0b0000000000000011#16 = .encRead ∧
  decodeCommand 0b0000000000000101#16 = .decResp ∧
  decodeCommand 0b0000000100000011#16 = .illegal 0x0103#16 ∧
  decodeRequest 0xFFFF#16 [0x01#8, 0x03#8, 0x01#8, 0x01#8, 0x00#8, 0x01#8, 0xD4#8, 0x36#8] =
    .ok (.frameReadRequest 0x01#8 0x0101#16 0x0001#16) ∧
  decodeResponse [0x01#8, 0x03#8, 0x02#8, 0x00#8, 0xF5#8, 0x78#8, 0x03#8] =
    .ok (.frameReadResponse 0x01#8 [0x00F5#16] 0x0378#16) ∧
  decodeResponse [0x01#8, 0x86#8, 0x02#8, 0xC3#8, 0xA1#8] =
    .ok (.frameExceptionResponse 0x01#8 .writeSingle 0x02#8 0xA1C3#16)

/-- Every well-formed instruction, with every operand value its encoding admits and for every CRC_INIT: decoding its
encoding gives it back. -/
def Obligations.EncodeThenDecode : Prop :=
  ∀ (init : Word) (i : Instr), i.WellFormed = true → decode init (encode init i) = .ok i

/-- Whatever decodes, decodes to a well-formed instruction whose encoding it is: no two encodings share an instruction and
no bit is ignored. -/
def Obligations.DecodeThenEncode : Prop :=
  ∀ (init : Word) (e : Encoded) (i : Instr), decode init e = .ok i → encode init i = e ∧ i.WellFormed = true

/-- The model's choice of log 6: a command word presented to the machine is what the very next step runs. -/
def Obligations.PresentedWordRunsNext : Prop :=
  ∀ (s : State) (w : Nat), w < 2 ^ 16 →
    decodeTableWord 16 w = some (decodeCommand (BitVec.ofNat 16 w)) ∧
    step (s.withFetchWord 16 w) = exec (decodeCommand (BitVec.ofNat 16 w)) s

/-! ### The CRC -/

/-- R100: crcStep is the exclusive-or with the byte, then eight reflected shifts. R101: crc16 starts from CRC_INIT, folds the
bytes in order and ends without a final exclusive-or; its check value on "123456789" under the default CRC_INIT. -/
def Obligations.CrcIsEightShiftsPerByte : Prop :=
  (∀ (c : Word) (b : Byte),
    crcStep c b =
      (fun x : Word => if x.getLsbD 0 then (x >>> 1) ^^^ 0xA001#16 else x >>> 1)^[8] (c ^^^ b.setWidth 16)) ∧
  (∀ (init : Word) (s : List Byte) (b : Byte),
    crc16 init [] = init ∧ crc16 init (s ++ [b]) = crcStep (crc16 init s) b) ∧
  crc16 0xFFFF#16 [0x31#8, 0x32#8, 0x33#8, 0x34#8, 0x35#8, 0x36#8, 0x37#8, 0x38#8, 0x39#8] = 0x4B37#16

/-- R102: CRC_INIT. -/
def Obligations.CrcInitLoadsTheParameter : Prop :=
  decodeCommand 0x0001#16 = .crcInit ∧
  ∀ s : State, exec .crcInit s = .next { s with crc := s.cfg.crcInit, status := 0x01#8 }

/-- 40_crc.md section 2, CRC_BYTE, for every data byte: it is folded into CRC, and nothing else but STATUS changes. A zero
accumulator stays zero under a zero byte; that crcStep is injective in its byte is the spec's own derivation there. -/
def Obligations.CrcByteFoldsItsByte : Prop :=
  ∀ (b : Byte) (s : State),
    decodeCommand (b.setWidth 16 <<< 8 ||| 0x0002#16) = .crcByte b ∧
    exec (.crcByte b) s = .next { s with crc := crcStep s.crc b, status := 0x01#8 } ∧
    crcStep 0x0000#16 0x00#8 = 0x0000#16 ∧ ∀ (c : Word) (b' : Byte), crcStep c b = crcStep c b' → b = b'

/-- 40_crc.md section 3, streaming equals batch (the spec's own derivation): CRC_INIT and then CRC_BYTE for each byte of s
leave crc16(s) in CRC and change nothing else but STATUS. -/
def Obligations.StreamingEqualsBatch : Prop :=
  ∀ (s : State) (bytes : List Byte),
    execAll (.crcInit :: bytes.map .crcByte) s =
      .next { s with crc := crc16 s.cfg.crcInit bytes, status := 0x01#8 }

/-- 40_crc.md section 3, the residue (the spec's own derivation): a frame whose CRC field is right has CRC 0x0000, for
every CRC_INIT, and only such a frame has it: the two tests accept the same frames. -/
def Obligations.ResidueIsZeroExactlyForGoodFrames : Prop :=
  (∀ (init : Word) (B : List Byte), crc16 init (sealFrame init B) = 0x0000#16) ∧
  (∀ (init : Word) (F : List Byte), 2 ≤ F.length →
    (crc16 init F = 0x0000#16 ↔ crc16 init (frameBody F) = crcField F))

/-- 40_crc.md section 3 (the spec's own derivation): crcStep is linear over exclusive-or. -/
def Obligations.CrcStepIsLinear : Prop :=
  ∀ (c₁ c₂ : Word) (b₁ b₂ : Byte), crcStep (c₁ ^^^ c₂) (b₁ ^^^ b₂) = crcStep c₁ b₁ ^^^ crcStep c₂ b₂

/-- 40_crc.md section 3 (general knowledge of the spec's, here a theorem): a change of one byte, whichever bits it
changes, in a body of any length changes its CRC. For one byte this is R103's remark that crcStep is injective in b. -/
def Obligations.SingleByteChangeChangesCrc : Prop :=
  ∀ (init : Word) (before after : List Byte) (b b' : Byte), b ≠ b' →
    crc16 init (before ++ b :: after) ≠ crc16 init (before ++ b' :: after)

/-! ### The request encoder -/

/-- R120: ENC_READ, both ends: a count outside 1..125 clears TXLEN and records ERR_OPERAND, and nothing else changes; else
the eight bytes of the read request stand in TXBUF[0..7], TXBUF[8..255] are as before, and only TXLEN, CRC, FUNC and STATUS
change besides. -/
def Obligations.EncReadBuildsTheRequest : Prop :=
  decodeCommand 0x0003#16 = .encRead ∧
  ∀ s : State,
    (s.opnd.toNat < 1 ∨ 125 < s.opnd.toNat →
      exec .encRead s = .next { s with txlen := 0#9, status := 0x11#8, errflags := s.errflags ||| 0x02#8 }) ∧
    (1 ≤ s.opnd.toNat → s.opnd.toNat ≤ 125 →
      let B : List Byte := [s.slave, 0x03#8, s.addr.extractLsb' 8 8, s.addr.extractLsb' 0 8, s.opnd.extractLsb' 8 8,
        s.opnd.extractLsb' 0 8]
      let c := crc16 s.cfg.crcInit B
      ∃ t, exec .encRead s = .next t ∧
        (∀ i, i < 6 → readCell t.txbuf i = byteAt B i) ∧
        readCell t.txbuf 6 = c.extractLsb' 0 8 ∧ readCell t.txbuf 7 = c.extractLsb' 8 8 ∧
        (∀ i, 8 ≤ i → readCell t.txbuf i = readCell s.txbuf i) ∧
        t = { s with txbuf := t.txbuf, txlen := 8#9, crc := c, func := 0x03#8, status := 0x01#8 })

/-- R121: ENC_WRITE, for every value of OPND. -/
def Obligations.EncWriteBuildsTheRequest : Prop :=
  decodeCommand 0x0004#16 = .encWrite ∧
  ∀ s : State,
    let B : List Byte := [s.slave, 0x06#8, s.addr.extractLsb' 8 8, s.addr.extractLsb' 0 8, s.opnd.extractLsb' 8 8,
      s.opnd.extractLsb' 0 8]
    let c := crc16 s.cfg.crcInit B
    ∃ t, exec .encWrite s = .next t ∧
      (∀ i, i < 6 → readCell t.txbuf i = byteAt B i) ∧
      readCell t.txbuf 6 = c.extractLsb' 0 8 ∧ readCell t.txbuf 7 = c.extractLsb' 8 8 ∧
      (∀ i, 8 ≤ i → readCell t.txbuf i = readCell s.txbuf i) ∧
      t = { s with txbuf := t.txbuf, txlen := 8#9, crc := c, func := 0x06#8, status := 0x01#8 }

/-- The model's choice of log 5, what running a request frame means: the block builds it. Its bytes, as the encoder gives
them, stand in TXBUF[0..7], and the rest is as the encoder commands leave it; a read request whose count is outside 1..125
ends as ENC_READ does. -/
def Obligations.RequestFramesAreBuilt : Prop :=
  (∀ (slave : Byte) (addr count : Word) (s : State), 1 ≤ count.toNat → count.toNat ≤ 125 →
    ∃ t F, exec (.frameReadRequest slave addr count) s = .next t ∧
      encode s.cfg.crcInit (.frameReadRequest slave addr count) = .request F ∧ F.length = 8 ∧
      (∀ i, i < 8 → readCell t.txbuf i = byteAt F i) ∧ (∀ i, 8 ≤ i → readCell t.txbuf i = readCell s.txbuf i) ∧
      t = { s with txbuf := t.txbuf, txlen := 8#9, crc := crcField F, func := 0x03#8, status := 0x01#8 }) ∧
  (∀ (slave : Byte) (addr count : Word) (s : State), count.toNat < 1 ∨ 125 < count.toNat →
    exec (.frameReadRequest slave addr count) s =
      .next { s with txlen := 0#9, status := 0x11#8, errflags := s.errflags ||| 0x02#8 }) ∧
  (∀ (slave : Byte) (addr value : Word) (s : State),
    ∃ t F, exec (.frameWriteRequest slave addr value) s = .next t ∧
      encode s.cfg.crcInit (.frameWriteRequest slave addr value) = .request F ∧ F.length = 8 ∧
      (∀ i, i < 8 → readCell t.txbuf i = byteAt F i) ∧ (∀ i, 8 ≤ i → readCell t.txbuf i = readCell s.txbuf i) ∧
      t = { s with txbuf := t.txbuf, txlen := 8#9, crc := crcField F, func := 0x06#8, status := 0x01#8 })

/-- The model's choice of log 5: ENC_READ and ENC_WRITE run the request frame that SLAVE, ADDR and OPND name. -/
def Obligations.EncodersRunTheFrameOfTheirRegisters : Prop :=
  ∀ s : State,
    exec .encRead s = exec (.frameReadRequest s.slave s.addr s.opnd) s ∧
    exec .encWrite s = exec (.frameWriteRequest s.slave s.addr s.opnd) s

/-- 41_encode.md (the spec's own derivation): the encoders are pure functions of SLAVE, ADDR, OPND and CRC_INIT. Two states
that agree on these get the same TXBUF[0..7], TXLEN, CRC, FUNC and STATUS from a successful encode, and performing an
encoder twice is performing it once. The second part needs TXBUF's canonical form, which every reachable state has. -/
def Obligations.EncodersArePureAndIdempotent : Prop :=
  (∀ (i : Instr) (s s' t t' : State), i = .encRead ∨ i = .encWrite → s.slave = s'.slave → s.addr = s'.addr →
    s.opnd = s'.opnd → s.cfg = s'.cfg → exec i s = .next t → exec i s' = .next t' → t.status = 0x01#8 →
      (∀ k, k < 8 → readCell t.txbuf k = readCell t'.txbuf k) ∧ t.txlen = t'.txlen ∧ t.crc = t'.crc ∧
      t.func = t'.func ∧ t'.status = 0x01#8) ∧
  (∀ (i : Instr) (s t : State), i = .encRead ∨ i = .encWrite → Memory.wf s.txbuf = true → exec i s = .next t →
    exec i t = .next t)

/-! ### The frame decoder -/

/-- R140: the three ends of the CRC stage, whose minimum length is 5 for DEC_RESP and 4 for DEC_FRAME. -/
def Obligations.CrcStageHasThreeEnds : Prop :=
  minRespLen = 5 ∧ minFrameLen = 4 ∧
  ∀ (minLen : Nat) (s : State),
    let n := s.rxlen.toNat
    let F := received s
    let c := crc16 s.cfg.crcInit ((List.range (n - 2)).map (readCell s.rxbuf))
    let f := be16 (readCell s.rxbuf (n - 1)) (readCell s.rxbuf (n - 2))
    2 ≤ minLen →
    (n < minLen ∨ 256 < n → crcStage minLen F s = (s, some .errLength)) ∧
    (minLen ≤ n → n ≤ 256 → c ≠ f → crcStage minLen F s = ({ s with crc := c, rxCrc := f }, some .errCrc)) ∧
    (minLen ≤ n → n ≤ 256 → c = f →
      crcStage minLen F s =
        ({ s with
            crc := c, rxCrc := f, rxSlave := readCell s.rxbuf 0, rxFunc := readCell s.rxbuf 1,
            plen := BitVec.ofNat 8 (n - 4) }, none))

/-- R141: DEC_RESP clears the results, then makes its checks in order, then takes the path the function code selects. -/
def Obligations.DecRespFollowsItsChecks : Prop :=
  decodeCommand 0x0005#16 = .decResp ∧
  ∀ s : State,
    let F := received s
    (¬FuncValid s → exec .decResp s = .next (finish .errOperand (clearResults s))) ∧
    (∀ s₁ r, FuncValid s → crcStage 5 F (clearResults s) = (s₁, some r) → exec .decResp s = .next (finish r s₁)) ∧
    (∀ s₁, FuncValid s → crcStage 5 F (clearResults s) = (s₁, none) →
      (byteAt F 0 ≠ s.slave → exec .decResp s = .next (finish .errSlave s₁)) ∧
      (byteAt F 0 = s.slave → byteAt F 1 = s.func ||| 0x80#8 → exec .decResp s = .next (exceptionPath F s₁)) ∧
      (byteAt F 0 = s.slave → byteAt F 1 ≠ s.func ||| 0x80#8 → byteAt F 1 ≠ s.func →
        exec .decResp s = .next (finish .errFunction s₁)) ∧
      (byteAt F 0 = s.slave → byteAt F 1 = s.func → s.func = 0x03#8 → exec .decResp s = .next (readPath F s₁)) ∧
      (byteAt F 0 = s.slave → byteAt F 1 = s.func → s.func = 0x06#8 → exec .decResp s = .next (writePath F s₁)))

/-- R142: the exception path. -/
def Obligations.ExceptionPathReportsTheCode : Prop :=
  ∀ (F : List Byte) (s : State),
    (F.length ≠ 5 → exceptionPath F s = { s with status := 0x12#8, errflags := s.errflags ||| 0x04#8 }) ∧
    (F.length = 5 →
      exceptionPath F s =
        { s with excCode := byteAt F 2, status := 0x03#8, errflags := s.errflags ||| 0x80#8 })

/-- R143: the read path: the byte-count check, the length check, then the values. -/
def Obligations.ReadPathExtractsTheValues : Prop :=
  ∀ (F : List Byte) (s : State),
    let bc := byteAt F 2
    (bc = 0#8 ∨ bc.getLsbD 0 = true ∨ 250 < bc.toNat →
      readPath F s = { s with status := 0x16#8, errflags := s.errflags ||| 0x40#8 }) ∧
    (bc ≠ 0#8 → bc.getLsbD 0 = false → bc.toNat ≤ 250 → F.length ≠ 5 + bc.toNat →
      readPath F s = { s with status := 0x12#8, errflags := s.errflags ||| 0x04#8 }) ∧
    (bc ≠ 0#8 → bc.getLsbD 0 = false → bc.toNat ≤ 250 → F.length = 5 + bc.toNat →
      (∀ k, k < bc.toNat / 2 →
        readCell (readPath F s).values k = be16 (byteAt F (3 + 2 * k)) (byteAt F (4 + 2 * k))) ∧
      (∀ k, bc.toNat / 2 ≤ k → readCell (readPath F s).values k = readCell s.values k) ∧
      readPath F s =
        { s with values := (readPath F s).values, nvalues := BitVec.ofNat 8 (bc.toNat / 2), status := 0x02#8 })

/-- R144: the write path: the length check, then the echo's address and value. -/
def Obligations.WritePathReportsTheEcho : Prop :=
  ∀ (F : List Byte) (s : State),
    let v := be16 (byteAt F 4) (byteAt F 5)
    (F.length ≠ 8 → writePath F s = { s with status := 0x12#8, errflags := s.errflags ||| 0x04#8 }) ∧
    (F.length = 8 →
      readCell (writePath F s).values 0 = v ∧
      (∀ k, k ≠ 0 → readCell (writePath F s).values k = readCell s.values k) ∧
      writePath F s =
        { s with
          rxAddr := be16 (byteAt F 2) (byteAt F 3), rxOpnd := v, values := (writePath F s).values, nvalues := 1#8,
          status := 0x02#8 })

/-- DEC_RESP from end to end on a read response (42_decode.md sections 1 and 2): every register afterwards. -/
def Obligations.DecRespDeliversReadValues : Prop :=
  ∀ s : State,
    let n := s.rxlen.toNat
    let bc := readCell s.rxbuf 2
    s.func = 0x03#8 → readCell s.rxbuf 0 = s.slave → readCell s.rxbuf 1 = 0x03#8 → bc ≠ 0#8 → bc.getLsbD 0 = false →
    bc.toNat ≤ 250 → n = 5 + bc.toNat → CrcGood s →
    ∃ t, exec .decResp s = .next t ∧
      (∀ k, k < bc.toNat / 2 →
        readCell t.values k = be16 (readCell s.rxbuf (3 + 2 * k)) (readCell s.rxbuf (4 + 2 * k))) ∧
      (∀ k, bc.toNat / 2 ≤ k → readCell t.values k = 0#16) ∧
      t = { s with
            crc := crcField (received s), rxCrc := crcField (received s), rxSlave := s.slave, rxFunc := 0x03#8,
            plen := BitVec.ofNat 8 (n - 4), excCode := 0#8, rxAddr := 0#16, rxOpnd := 0#16, values := t.values,
            nvalues := BitVec.ofNat 8 (bc.toNat / 2), status := 0x02#8 }

/-- DEC_RESP from end to end on a write response and on an exception response (42_decode.md section 2). -/
def Obligations.DecRespReportsEchoAndException : Prop :=
  ∀ s : State, readCell s.rxbuf 0 = s.slave → CrcGood s →
    (s.func = 0x06#8 → readCell s.rxbuf 1 = 0x06#8 → s.rxlen = 8#9 →
      ∃ t, exec .decResp s = .next t ∧
        readCell t.values 0 = be16 (readCell s.rxbuf 4) (readCell s.rxbuf 5) ∧
        (∀ k, k ≠ 0 → readCell t.values k = 0#16) ∧
        t = { s with
              crc := crcField (received s), rxCrc := crcField (received s), rxSlave := s.slave, rxFunc := 0x06#8,
              plen := 4#8, excCode := 0#8, rxAddr := be16 (readCell s.rxbuf 2) (readCell s.rxbuf 3),
              rxOpnd := be16 (readCell s.rxbuf 4) (readCell s.rxbuf 5), values := t.values, nvalues := 1#8,
              status := 0x02#8 }) ∧
    (FuncValid s → readCell s.rxbuf 1 = s.func ||| 0x80#8 → s.rxlen = 5#9 →
      exec .decResp s = .next
        { s with
          crc := crcField (received s), rxCrc := crcField (received s), rxSlave := s.slave, rxFunc := s.func ||| 0x80#8,
          plen := 1#8, excCode := readCell s.rxbuf 2, rxAddr := 0#16, rxOpnd := 0#16, values := [], nvalues := 0#8,
          status := 0x03#8, errflags := s.errflags ||| 0x80#8 })

/-- What each error of DEC_RESP leaves, register by register (42_decode.md sections 1 and 2; 60_exceptions.md section 1,
the table of errors): the checks before it passed, its own failed. -/
def Obligations.DecRespErrorsLeaveTheirRecord : Prop :=
  ∀ s : State,
    let n := s.rxlen.toNat
    let F := received s
    let bc := byteAt F 2
    let reached := FuncValid s ∧ 5 ≤ n ∧ n ≤ 256 ∧ CrcGood s ∧ byteAt F 0 = s.slave
    (¬FuncValid s →
      exec .decResp s = .next { clearResults s with status := 0x11#8, errflags := s.errflags ||| 0x02#8 }) ∧
    (FuncValid s → n < 5 ∨ 256 < n →
      exec .decResp s = .next { clearResults s with status := 0x12#8, errflags := s.errflags ||| 0x04#8 }) ∧
    (FuncValid s → 5 ≤ n → n ≤ 256 → ¬CrcGood s →
      exec .decResp s = .next
        { clearResults s with
          crc := crc16 s.cfg.crcInit (frameBody F), rxCrc := crcField F, status := 0x13#8,
          errflags := s.errflags ||| 0x08#8 }) ∧
    (FuncValid s → 5 ≤ n → n ≤ 256 → CrcGood s → byteAt F 0 ≠ s.slave →
      exec .decResp s = .next { passedCrcStage s with status := 0x14#8, errflags := s.errflags ||| 0x10#8 }) ∧
    (reached → byteAt F 1 ≠ s.func → byteAt F 1 ≠ s.func ||| 0x80#8 →
      exec .decResp s = .next { passedCrcStage s with status := 0x15#8, errflags := s.errflags ||| 0x20#8 }) ∧
    (reached → byteAt F 1 = s.func → s.func = 0x03#8 → bc = 0#8 ∨ bc.getLsbD 0 = true ∨ 250 < bc.toNat →
      exec .decResp s = .next { passedCrcStage s with status := 0x16#8, errflags := s.errflags ||| 0x40#8 }) ∧
    (reached →
      (byteAt F 1 = s.func ||| 0x80#8 ∧ n ≠ 5) ∨
      (byteAt F 1 = s.func ∧ s.func = 0x03#8 ∧ bc ≠ 0#8 ∧ bc.getLsbD 0 = false ∧ bc.toNat ≤ 250 ∧ n ≠ 5 + bc.toNat) ∨
      (byteAt F 1 = s.func ∧ s.func = 0x06#8 ∧ n ≠ 8) →
      exec .decResp s = .next { passedCrcStage s with status := 0x12#8, errflags := s.errflags ||| 0x04#8 })

/-- R203: a command reports exactly one code, the first failing check in the order given, for Execute, ENC_READ, DEC_RESP
and DEC_FRAME. -/
def Obligations.FirstFailingCheckIsReported : Prop :=
  ∀ s t : State,
    let n := s.rxlen.toNat
    let F := received s
    let bc := byteAt F 2
    let exc := byteAt F 1 = s.func ||| 0x80#8
    (∀ w, 8 ≤ (opField w).toNat ∨ (opField w ≠ 0x02#8 ∧ imm8Field w ≠ 0x00#8) → exec (decodeCommand w) s = .next t →
      t.status = 0x10#8) ∧
    (exec .encRead s = .next t →
      firstCode [(s.opnd.toNat < 1 ∨ 125 < s.opnd.toNat, 0x11#8)] 0x01#8 t.status) ∧
    (exec .decResp s = .next t →
      firstCode
        [ (¬FuncValid s, 0x11#8), (n < 5 ∨ 256 < n, 0x12#8), (¬CrcGood s, 0x13#8), (byteAt F 0 ≠ s.slave, 0x14#8),
          (exc ∧ n ≠ 5, 0x12#8), (exc, 0x03#8), (byteAt F 1 ≠ s.func, 0x15#8),
          (s.func = 0x03#8 ∧ (bc = 0#8 ∨ bc.getLsbD 0 = true ∨ 250 < bc.toNat), 0x16#8),
          (s.func = 0x03#8 ∧ n ≠ 5 + bc.toNat, 0x12#8), (s.func = 0x06#8 ∧ n ≠ 8, 0x12#8) ]
        0x02#8 t.status) ∧
    (exec .decFrame s = .next t →
      firstCode [(n < 4 ∨ 256 < n, 0x12#8), (¬CrcGood s, 0x13#8)] 0x04#8 t.status)

/-- R150: DEC_FRAME from end to end: its three ends, every register, whatever SLAVE and FUNC hold. -/
def Obligations.DecFrameSplitsAnyFrame : Prop :=
  decodeCommand 0x0006#16 = .decFrame ∧
  ∀ s : State,
    let n := s.rxlen.toNat
    let F := received s
    (n < 4 ∨ 256 < n →
      exec .decFrame s = .next { clearResults s with status := 0x12#8, errflags := s.errflags ||| 0x04#8 }) ∧
    (4 ≤ n → n ≤ 256 → ¬CrcGood s →
      exec .decFrame s = .next
        { clearResults s with
          crc := crc16 s.cfg.crcInit (frameBody F), rxCrc := crcField F, status := 0x13#8,
          errflags := s.errflags ||| 0x08#8 }) ∧
    (4 ≤ n → n ≤ 256 → CrcGood s →
      exec .decFrame s = .next
        { passedCrcStage s with
          rxAddr := if 6 ≤ n then be16 (byteAt F 2) (byteAt F 3) else 0#16
          rxOpnd := if 8 ≤ n then be16 (byteAt F 4) (byteAt F 5) else 0#16
          status := 0x04#8 })

/-- 42_decode.md section 3: DEC_FRAME neither reads nor writes SLAVE and FUNC. -/
def Obligations.DecFrameIgnoresSlaveAndFunc : Prop :=
  ∀ (s t : State) (x y : Byte), exec .decFrame s = .next t →
    exec .decFrame { s with slave := x, func := y } = .next { t with slave := x, func := y } ∧
    t.slave = s.slave ∧ t.func = s.func

/-- The frame of the decoders: DEC_RESP and DEC_FRAME change nothing but STATUS, ERRFLAGS, CRC and the result registers
(42_decode.md sections 2 and 3; 10_state.md section 5): every operand register and both frame buffers stay. -/
def Obligations.DecodersKeepOperandsAndBuffers : Prop :=
  ∀ (i : Instr) (s t : State), i = .decResp ∨ i = .decFrame → exec i s = .next t →
    t.slave = s.slave ∧ t.func = s.func ∧ t.addr = s.addr ∧ t.opnd = s.opnd ∧ t.txlen = s.txlen ∧ t.rxlen = s.rxlen ∧
    (∀ a, readCell t.txbuf a = readCell s.txbuf a) ∧ (∀ a, readCell t.rxbuf a = readCell s.rxbuf a)

/-- R42: ClearResults sets every result register to 0; DEC_RESP and DEC_FRAME do so first, so what the registers held before
does not matter and a decode stopped by its first check leaves them 0; no other command word's instruction changes them. -/
def Obligations.ResultsReflectOnlyTheLatestDecode : Prop :=
  (∀ s : State, clearResults s =
    { s with
      rxSlave := 0#8, rxFunc := 0#8, excCode := 0#8, nvalues := 0#8, plen := 0#8, rxAddr := 0#16, rxOpnd := 0#16,
      rxCrc := 0#16, values := [] }) ∧
  (∀ s : State, (¬FuncValid s → exec .decResp s = .next (finish .errOperand (clearResults s))) ∧
    (s.rxlen.toNat < 4 → exec .decFrame s = .next (finish .errLength (clearResults s)))) ∧
  (∀ (i : Instr) (s : State) (a b c d e : Byte) (x y z : Word) (v : Cells 16), i = .decResp ∨ i = .decFrame →
    exec i { s with
      rxSlave := a, rxFunc := b, excCode := c, nvalues := d, plen := e, rxAddr := x, rxOpnd := y, rxCrc := z,
      values := v } = exec i s) ∧
  (∀ (w : Word) (s t : State), decodeCommand w ≠ .decResp → decodeCommand w ≠ .decFrame →
    exec (decodeCommand w) s = .next t →
    t.rxSlave = s.rxSlave ∧ t.rxFunc = s.rxFunc ∧ t.excCode = s.excCode ∧ t.nvalues = s.nvalues ∧ t.plen = s.plen ∧
    t.rxAddr = s.rxAddr ∧ t.rxOpnd = s.rxOpnd ∧ t.rxCrc = s.rxCrc ∧ t.values = s.values)

/-- 10_state.md sections 4 and 5: after every decode that does not end OK_DATA, NVALUES is 0 and every VALUES entry is 0;
after any decode VALUES[i] is 0 for every i at or above NVALUES; EXC_CODE is 0 unless the decode ended OK_EXCEPTION. -/
def Obligations.FailedDecodeShowsNoValue : Prop :=
  ∀ (i : Instr) (s t : State), i = .decResp ∨ i = .decFrame → exec i s = .next t →
    (t.status ≠ 0x02#8 → t.nvalues = 0#8 ∧ ∀ k, readCell t.values k = 0#16) ∧
    (∀ k, t.nvalues.toNat ≤ k → readCell t.values k = 0#16) ∧
    (t.status ≠ 0x03#8 → t.excCode = 0#8)

/-- 42_decode.md section 2, the outcomes as DOC0's result types: every DEC_RESP ends in exactly one, and an exception carries
its code. -/
def Obligations.DecRespHasAResultType : Prop :=
  ∀ s t : State, exec .decResp s = .next t →
    (respResult t = some .decodedResponse ∧ t.status = 0x02#8) ∨
    (respResult t = some (.exceptionResponse (readCell s.rxbuf 2)) ∧ t.status = 0x03#8) ∨
    (respResult t = some .operandFault ∧ t.status = 0x11#8) ∨
    (respResult t = some .protocolError ∧ 0x12 ≤ t.status.toNat ∧ t.status.toNat ≤ 0x16)

/-! ### Response frames as instructions (log 5) -/

/-- The model's choice of log 5, what running a read response means: DEC_RESP decodes it. With FUNC, SLAVE and the CRC field
as the frame requires, its values are extracted. -/
def Obligations.ReadResponseFrameGivesItsValues : Prop :=
  ∀ (slave : Byte) (values : List Word) (s : State), 1 ≤ values.length → values.length ≤ 125 → s.func = 0x03#8 →
    s.slave = slave →
    let crc := crc16 s.cfg.crcInit (frameBody (readResponseBytes slave values 0#16))
    ∃ t, exec (.frameReadResponse slave values crc) s = .next t ∧
      (∀ k, readCell t.values k = values.getD k 0#16) ∧
      t = { s with
            crc := crc, rxCrc := crc, rxSlave := slave, rxFunc := 0x03#8,
            plen := BitVec.ofNat 8 (2 * values.length + 1), excCode := 0#8, rxAddr := 0#16, rxOpnd := 0#16,
            values := t.values, nvalues := BitVec.ofNat 8 values.length, status := 0x02#8 }

/-- The model's choice of log 5, running a write response and an exception response. -/
def Obligations.EchoAndExceptionFramesAreReported : Prop :=
  (∀ (slave : Byte) (addr value : Word) (s : State), s.func = 0x06#8 → s.slave = slave →
    let crc := crc16 s.cfg.crcInit (requestBody 0x06#8 slave addr value)
    ∃ t, exec (.frameWriteResponse slave addr value crc) s = .next t ∧
      readCell t.values 0 = value ∧ (∀ k, k ≠ 0 → readCell t.values k = 0#16) ∧
      t = { s with
            crc := crc, rxCrc := crc, rxSlave := slave, rxFunc := 0x06#8, plen := 4#8, excCode := 0#8, rxAddr := addr,
            rxOpnd := value, values := t.values, nvalues := 1#8, status := 0x02#8 }) ∧
  (∀ (slave : Byte) (fc : FuncCode) (code : Byte) (s : State), s.func = fc.byte → s.slave = slave →
    let crc := crc16 s.cfg.crcInit [slave, fc.byte ||| 0x80#8, code]
    exec (.frameExceptionResponse slave fc code crc) s = .next
      { s with
        crc := crc, rxCrc := crc, rxSlave := slave, rxFunc := fc.byte ||| 0x80#8, plen := 1#8, excCode := code,
        rxAddr := 0#16, rxOpnd := 0#16, values := [], nvalues := 0#8, status := 0x03#8,
        errflags := s.errflags ||| 0x80#8 })

/-- The model's choice of log 5: a response frame whose CRC field is wrong ends ERR_CRC, whatever its fields, when FUNC is
valid, and shows no value. -/
def Obligations.BadCrcResponseFrameIsReported : Prop :=
  ∀ (i : Instr) (F : List Byte) (s t : State), encode s.cfg.crcInit i = .response F → i.WellFormed = true →
    FuncValid s → crc16 s.cfg.crcInit (frameBody F) ≠ crcField F → exec i s = .next t →
    t = { clearResults s with
          crc := crc16 s.cfg.crcInit (frameBody F), rxCrc := crcField F, status := 0x13#8,
          errflags := s.errflags ||| 0x08#8 }

/-- The model's choice of log 5 tied to the machine: when the frame in RXBUF[0..RXLEN) decodes to a response frame, a step
that writes DEC_RESP to CMD runs that frame, whatever FUNC and SLAVE hold. -/
def Obligations.DecRespRunsTheReceivedFrame : Prop :=
  ∀ (s : State) (i : Instr) (rest : List Input), s.pending = .write 0x000#12 0x0005#16 :: rest →
    decodeResponse (received s) = .ok i → step s = exec i { s with pending := rest }

/-- The model's choice of log 6: a frame presented to the machine is what the very next step runs, and presenting it touches
only the operand registers and the receive buffer. -/
def Obligations.PresentedFrameRunsNext : Prop :=
  ∀ (s : State) (nbits w : Nat) (i : Instr), 16 < nbits → s.cfg = Config.default → decodeTableWord nbits w = some i →
    ∃ u : State, step (s.withFetchWord nbits w) = exec i u ∧
      u = { s with slave := u.slave, addr := u.addr, opnd := u.opnd, rxbuf := u.rxbuf, rxlen := u.rxlen }

/-! ### Utility commands -/

/-- R170: NOP, whose only encoding is 0x0000, has no effect at all: STATUS and ERRFLAGS keep their values. -/
def Obligations.NopDoesNothing : Prop :=
  (∀ w : Word, decodeCommand w = .nop ↔ w = 0x0000#16) ∧ ∀ s : State, exec .nop s = .next s

/-- R171: LOOP copies TXBUF[0..TXLEN) into RXBUF and TXLEN into RXLEN; RXBUF at and above TXLEN and everything else stay.
TXLEN is at most 256 (it is 0 or 8 in every reachable state, R29; log 7). -/
def Obligations.LoopCopiesTheTransmitFrame : Prop :=
  decodeCommand 0x0007#16 = .loop ∧
  ∀ s : State, s.txlen.toNat ≤ 256 →
    ∃ t, exec .loop s = .next t ∧
      (∀ i, i < s.txlen.toNat → readCell t.rxbuf i = readCell s.txbuf i) ∧
      (∀ i, s.txlen.toNat ≤ i → readCell t.rxbuf i = readCell s.rxbuf i) ∧
      t = { s with rxbuf := t.rxbuf, rxlen := s.txlen, status := 0x01#8 }

/-- R172: an illegal word performs IllegalCommand: STATUS and ERRFLAGS bit 0, and nothing else. -/
def Obligations.IllegalWordRecordsOnlyItsCode : Prop :=
  (∀ w : Word, 8 ≤ (opField w).toNat ∨ (opField w ≠ 0x02#8 ∧ imm8Field w ≠ 0x00#8) → decodeCommand w = .illegal w) ∧
  (∀ (w : Word) (s : State),
    exec (.illegal w) s = .next { s with status := 0x10#8, errflags := s.errflags ||| 0x01#8 })

/-! ### Round trips and corruption -/

/-- 42_decode.md section 4, framing symmetry (the spec's own derivation): encode, loop back, decode gives the same slave,
function code, address and operand; for a write also through DEC_RESP. -/
def Obligations.LoopbackRoundTrips : Prop :=
  ∀ s : State,
    (1 ≤ s.opnd.toNat → s.opnd.toNat ≤ 125 →
      ∃ t, execAll [.encRead, .loop, .decFrame] s = .next t ∧ t.status = 0x04#8 ∧ t.rxSlave = s.slave ∧
        t.rxFunc = 0x03#8 ∧ t.plen = 4#8 ∧ t.rxAddr = s.addr ∧ t.rxOpnd = s.opnd) ∧
    (∃ t, execAll [.encWrite, .loop, .decFrame] s = .next t ∧ t.status = 0x04#8 ∧ t.rxSlave = s.slave ∧
        t.rxFunc = 0x06#8 ∧ t.plen = 4#8 ∧ t.rxAddr = s.addr ∧ t.rxOpnd = s.opnd) ∧
    (∃ t, execAll [.encWrite, .loop, .decResp] s = .next t ∧ t.status = 0x02#8 ∧ t.rxAddr = s.addr ∧
        t.rxOpnd = s.opnd ∧ readCell t.values 0 = s.opnd ∧ t.nvalues = 1#8)

/-- 42_decode.md section 4 and 90_conflicts.md C3: a read request looped back is no response. DEC_RESP reads its address high
byte as a byte count: ERR_BYTECOUNT if that is 0, odd or above 250, else ERR_LENGTH, and never a value. -/
def Obligations.LoopedReadRequestIsNoResponse : Prop :=
  ∀ s : State, 1 ≤ s.opnd.toNat → s.opnd.toNat ≤ 125 →
    ∃ t, execAll [.encRead, .loop, .decResp] s = .next t ∧ t.nvalues = 0#8 ∧
      t.status =
        (if hiByte s.addr = 0#8 ∨ (hiByte s.addr).getLsbD 0 = true ∨ 250 < (hiByte s.addr).toNat then 0x16#8
          else 0x12#8)

/-- 42_decode.md section 4, corrupted CRC (the spec's own derivation): replace one of the two CRC bytes of a good frame in
RXBUF by a different byte, and DEC_RESP finishes with ERR_CRC and shows no value and no exception code. -/
def Obligations.CorruptedCrcByteIsReported : Prop :=
  ∀ (s : State) (j : Nat) (b : Byte), FuncValid s → 5 ≤ s.rxlen.toNat → s.rxlen.toNat ≤ 256 → CrcGood s →
    j = s.rxlen.toNat - 2 ∨ j = s.rxlen.toNat - 1 → b ≠ readCell s.rxbuf j →
    ∃ t, exec .decResp { s with rxbuf := writeCell s.rxbuf j b } = .next t ∧ t.status = 0x13#8 ∧
      t.errflags = s.errflags ||| 0x08#8 ∧ t.nvalues = 0#8 ∧ t.excCode = 0#8 ∧ t.crc = crcField (received s)

/-- 40_crc.md section 3: the same for any one byte of the body, whichever bits change. The spec marks its single-bit claim for
bodies of any length as general knowledge (log 11); here it follows from the CRC's pseudocode. -/
def Obligations.CorruptedBodyByteIsReported : Prop :=
  ∀ (s : State) (j : Nat) (b : Byte), FuncValid s → 5 ≤ s.rxlen.toNat → s.rxlen.toNat ≤ 256 → CrcGood s →
    j < s.rxlen.toNat - 2 → b ≠ readCell s.rxbuf j →
    ∃ t, exec .decResp { s with rxbuf := writeCell s.rxbuf j b } = .next t ∧ t.status = 0x13#8 ∧
      t.errflags = s.errflags ||| 0x08#8 ∧ t.nvalues = 0#8 ∧ t.excCode = 0#8

/-! ### The pseudo-instructions -/

/-- 30_encoding.md section 3, RECV: served to its end it leaves exactly the given bytes as the received frame, and changes no
register but RXBUF and RXLEN. -/
def Obligations.RecvPresentsTheFrame : Prop :=
  ∀ (s : State) (F : List Byte) (rest : List Input), F.length ≤ 256 → s.pending = (Pseudo.recv F).expand ++ rest →
    ∃ t : State, Host.Core.run Sys2Proof.core (F.length + 1) s = .next t ∧ received t = F ∧
      (∀ j, F.length ≤ j → readCell t.rxbuf j = readCell s.rxbuf j) ∧
      t = { s with rxbuf := t.rxbuf, rxlen := BitVec.ofNat 9 F.length, pending := rest }

/-- 30_encoding.md section 3, READREQ and WRITEREQ: they expand to the writes of SLAVE, ADDR and OPND and ENC_READ or ENC_WRITE.
That the last step is exec of the request frame of their operands is the model's choice of log 5. -/
def Obligations.RequestPseudosRunTheirFrame : Prop :=
  ∀ (s : State) (slave addr operand : Word) (rest : List Input),
    let u : State := { s with slave := loByte slave, addr := addr, opnd := operand, pending := rest }
    (s.pending = (Pseudo.readReq slave addr operand).expand ++ rest →
      Host.Core.run Sys2Proof.core 4 s = exec (.frameReadRequest (loByte slave) addr operand) u) ∧
    (s.pending = (Pseudo.writeReq slave addr operand).expand ++ rest →
      Host.Core.run Sys2Proof.core 4 s = exec (.frameWriteRequest (loByte slave) addr operand) u)

/-! ### The invariant -/

/-- The invariant holds after reset, for every CRC_INIT. -/
def Obligations.ResetMeetsTheInvariant : Prop :=
  ∀ c : Config, (State.resetWith c).Inv

/-- Every step keeps the invariant: the register files keep their canonical form and their size, STATUS stays a legal code,
TXLEN is 0 or 8, NVALUES and PLEN keep their ranges, VALUES is 0 at and above NVALUES, TXBUF is 0 from entry 8 on, and a
transmit frame marked valid is a request with its CRC right. -/
def Obligations.StepKeepsTheInvariant : Prop :=
  ∀ s t : State, s.Inv → step s = .next t → t.Inv
end

