-- ==== Sys2Proof/Laws/Bits.lean ====
section
/-! SUPPORT. Bit fields, byte order, and the CRC's small lemmas. -/

namespace Sys2Proof

@[simp] theorem hiByte_be16 (h l : Byte) : hiByte (be16 h l) = h := by
  ext i hi
  simp [hiByte, be16, hi, show 8 + i < 16 by omega]

@[simp] theorem loByte_be16 (h l : Byte) : loByte (be16 h l) = l := by
  ext i hi
  simp [loByte, be16, hi, show i < 16 by omega]

@[simp] theorem be16_hi_lo (x : Word) : be16 (hiByte x) (loByte x) = x := by
  ext i hi
  by_cases h : i < 8
  · simp [be16, hiByte, loByte, h, hi]
  · simp [be16, hiByte, loByte, h, hi, show 8 + (i - 8) = i by omega, show i - 8 < 8 by omega]

theorem be16_inj {h l h' l' : Byte} (e : be16 h l = be16 h' l') : h = h' ∧ l = l' :=
  ⟨by simpa using congrArg hiByte e, by simpa using congrArg loByte e⟩

/-- No word matches two rows of the opcode map (30_encoding.md R72). -/
theorem opcodeMap_disjoint :
    opcodeMap.Pairwise fun r r' => r.pattern &&& (r.mask &&& r'.mask) ≠ r'.pattern &&& (r.mask &&& r'.mask) := by
  decide

@[simp] theorem crc16_nil (init : Word) : crc16 init [] = init := rfl

theorem crc16_append (init : Word) (s t : List Byte) : crc16 init (s ++ t) = crc16 (crc16 init s) t := by
  simp [crc16]

theorem crc16_concat (init : Word) (s : List Byte) (b : Byte) : crc16 init (s ++ [b]) = crcStep (crc16 init s) b := by
  simp [crc16]

@[simp] theorem requestBody_length (fc slave : Byte) (addr operand : Word) :
    (requestBody fc slave addr operand).length = 6 := rfl

@[simp] theorem crcBytes_length (c : Word) : (crcBytes c).length = 2 := rfl

@[simp] theorem sealFrame_length (init : Word) (body : List Byte) :
    (sealFrame init body).length = body.length + 2 := by simp [sealFrame]

@[simp] theorem flatMap_wordBytes_length (values : List Word) : (values.flatMap wordBytes).length = 2 * values.length := by
  induction values with
  | nil => rfl
  | cons v vs ih => simp only [List.flatMap_cons, List.length_append, List.length_cons, ih, wordBytes]; simp; omega

@[simp] theorem readResponseBytes_length (slave : Byte) (values : List Word) (crc : Word) :
    (readResponseBytes slave values crc).length = 5 + 2 * values.length := by
  simp only [readResponseBytes, List.length_append, flatMap_wordBytes_length, crcBytes_length, List.length_cons,
    List.length_nil]
  omega

@[simp] theorem writeResponseBytes_length (slave : Byte) (addr value crc : Word) :
    (writeResponseBytes slave addr value crc).length = 8 := rfl

@[simp] theorem exceptionResponseBytes_length (slave : Byte) (fc : FuncCode) (code : Byte) (crc : Word) :
    (exceptionResponseBytes slave fc code crc).length = 5 := rfl

@[simp] theorem frameBody_append_crcBytes (B : List Byte) (c : Word) : frameBody (B ++ crcBytes c) = B := by
  simp [frameBody]

@[simp] theorem crcField_append_crcBytes (B : List Byte) (c : Word) : crcField (B ++ crcBytes c) = c := by
  simp only [crcField, byteAt, List.length_append, crcBytes_length]
  rw [show B.length + 2 - 1 = B.length + 1 by omega, show B.length + 2 - 2 = B.length by omega]
  simp [crcBytes]

/-- A frame of two bytes or more is its body and its CRC field (R74, R75). -/
theorem frameBody_append_crcField (F : List Byte) (h : 2 ≤ F.length) : frameBody F ++ crcBytes (crcField F) = F := by
  obtain ⟨B, t, rfl, ht⟩ : ∃ B t, F = B ++ t ∧ t.length = 2 :=
    ⟨F.take (F.length - 2), F.drop (F.length - 2), by simp, by simp; omega⟩
  match t, ht with
  | [a, b], _ =>
    have : [a, b] = crcBytes (be16 b a) := by simp [crcBytes]
    rw [this]; simp

end Sys2Proof
end

