-- ==== Sys2Proof/Laws/Memory.lean ====
section
/-! SUPPORT. The register files: read after write, and the canonical form every write keeps. -/

namespace Sys2Proof.Machine

variable {w : Nat}

@[simp] theorem readCell_nil (i : Nat) : readCell ([] : Cells w) i = 0#w := rfl

theorem readCell_filter (m : Cells w) (i j : Nat) :
    readCell (m.filter fun c => c.1 != i) j = if j = i then 0#w else readCell m j := by
  induction m with
  | nil => simp
  | cons c m ih =>
    by_cases hc : c.1 = i
    · have : (c :: m).filter (fun c => c.1 != i) = m.filter fun c => c.1 != i := by simp [hc]
      rw [this, ih]
      by_cases hj : j = i
      · simp [hj]
      · simp [hj, readCell, hc, Ne.symm hj]
    · have : (c :: m).filter (fun c => c.1 != i) = c :: m.filter fun c => c.1 != i := by simp [hc]
      rw [this]
      simp only [readCell, ih]
      by_cases hj : c.1 = j
      · simp [hj, show j ≠ i from fun h => hc (hj.trans h)]
      · simp [hj]

theorem readCell_placeCell (m : Cells w) (i j : Nat) (v : BitVec w) (absent : ∀ c ∈ m, c.1 ≠ i) :
    readCell (placeCell m i v) j = if j = i then v else readCell m j := by
  induction m with
  | nil => simp [placeCell, readCell, eq_comm]
  | cons c m ih =>
    have hc : c.1 ≠ i := absent c (by simp)
    have ih := ih fun c hm => absent c (by simp [hm])
    unfold placeCell
    split
    · by_cases hj : j = i
      · simp [readCell, hj]
      · simp [readCell, hj, Ne.symm hj]
    · simp only [readCell, ih]
      by_cases hj : j = i
      · simp [hj, hc]
      · simp [hj]

/-- A read after a write gives the value written, and a write leaves every other entry alone. -/
theorem readCell_writeCell (m : Cells w) (i j : Nat) (v : BitVec w) :
    readCell (writeCell m i v) j = if j = i then v else readCell m j := by
  simp only [writeCell]
  split
  · next hv => rw [readCell_filter, hv]
  · rw [readCell_placeCell _ _ _ _ (by simp), readCell_filter]
    by_cases hj : j = i <;> simp [hj]

@[simp] theorem readCell_writeCell_same (m : Cells w) (i : Nat) (v : BitVec w) :
    readCell (writeCell m i v) i = v := by simp [readCell_writeCell]

theorem readCell_writeCells (m : Cells w) (i j : Nat) (vs : List (BitVec w)) :
    readCell (writeCells m i vs) j = if i ≤ j ∧ j < i + vs.length then vs.getD (j - i) 0#w else readCell m j := by
  induction vs generalizing m i with
  | nil => simp [writeCells, show ¬(i ≤ j ∧ j < i) by omega]
  | cons v vs ih =>
    simp only [writeCells, ih, readCell_writeCell, List.length_cons]
    by_cases hj : j = i
    · subst hj
      simp [show ¬(j + 1 ≤ j) by omega]
    · by_cases h : i + 1 ≤ j ∧ j < i + 1 + vs.length
      · obtain ⟨k, rfl⟩ : ∃ k, j = i + 1 + k := ⟨j - (i + 1), by omega⟩
        simp [show i ≤ i + 1 + k by omega, show i + 1 + k < i + (vs.length + 1) by omega,
          show i + 1 + k - i = k + 1 by omega, show i + 1 + k < i + 1 + vs.length by omega]
      · rw [if_neg h, if_neg hj, if_neg (by omega)]

theorem cellsWfFrom_mono {size lo lo' : Nat} {m : Cells w} (h : cellsWfFrom size lo m = true) (le : lo' ≤ lo) :
    cellsWfFrom size lo' m = true := by
  cases m with
  | nil => rfl
  | cons c m =>
    simp only [cellsWfFrom, Bool.and_eq_true, decide_eq_true_eq] at h ⊢
    exact ⟨⟨⟨by omega, h.1.1.2⟩, h.1.2⟩, h.2⟩

theorem cellsWfFrom_filter {size lo : Nat} {m : Cells w} (p : Nat × BitVec w → Bool) (h : cellsWfFrom size lo m = true) :
    cellsWfFrom size lo (m.filter p) = true := by
  induction m generalizing lo with
  | nil => rfl
  | cons c m ih =>
    simp only [cellsWfFrom, Bool.and_eq_true, decide_eq_true_eq] at h
    cases hp : p c with
    | false => rw [List.filter_cons_of_neg (by simp [hp])]; exact cellsWfFrom_mono (ih h.2) (by omega)
    | true =>
      rw [List.filter_cons_of_pos hp]
      simp only [cellsWfFrom, Bool.and_eq_true, decide_eq_true_eq]
      exact ⟨h.1, ih h.2⟩

theorem cellsWfFrom_placeCell {size lo i : Nat} {m : Cells w} {v : BitVec w} (h : cellsWfFrom size lo m = true)
    (absent : ∀ c ∈ m, c.1 ≠ i) (hlo : lo ≤ i) (hi : i < size) (hv : v ≠ 0#w) :
    cellsWfFrom size lo (placeCell m i v) = true := by
  induction m generalizing lo with
  | nil => simp [placeCell, cellsWfFrom, hlo, hi, hv]
  | cons c m ih =>
    have hc : c.1 ≠ i := absent c (by simp)
    simp only [cellsWfFrom, Bool.and_eq_true, decide_eq_true_eq] at h
    unfold placeCell
    split
    · simp only [cellsWfFrom, Bool.and_eq_true, decide_eq_true_eq]
      exact ⟨⟨⟨hlo, hi⟩, hv⟩, ⟨⟨by omega, h.1.1.2⟩, h.1.2⟩, h.2⟩
    · simp only [cellsWfFrom, Bool.and_eq_true, decide_eq_true_eq]
      exact ⟨h.1, ih h.2 (fun c hm => absent c (by simp [hm])) (by omega)⟩

/-- A write inside the file keeps the canonical form. -/
theorem cellsWf_writeCell {size i : Nat} {m : Cells w} (v : BitVec w) (h : cellsWf size m = true) (hi : i < size) :
    cellsWf size (writeCell m i v) = true := by
  simp only [writeCell]
  split
  · exact cellsWfFrom_filter _ h
  · next hv => exact cellsWfFrom_placeCell (cellsWfFrom_filter _ h) (by simp) (by omega) hi hv

theorem cellsWf_writeCells {size i : Nat} {m : Cells w} (vs : List (BitVec w)) (h : cellsWf size m = true)
    (hi : i + vs.length ≤ size) : cellsWf size (writeCells m i vs) = true := by
  induction vs generalizing m i with
  | nil => exact h
  | cons v vs ih =>
    simp only [List.length_cons] at hi
    exact ih (cellsWf_writeCell v h (by omega)) (by omega)

@[simp] theorem cellsWf_nil (size : Nat) : cellsWf size ([] : Cells w) = true := rfl

theorem readCell_below {size lo i : Nat} {m : Cells w} (h : cellsWfFrom size lo m = true) (hi : i < lo) :
    readCell m i = 0#w := by
  induction m generalizing lo with
  | nil => rfl
  | cons c m ih =>
    simp only [cellsWfFrom, Bool.and_eq_true, decide_eq_true_eq] at h
    simp [readCell, show c.1 ≠ i by omega, ih h.2 (by omega)]

theorem cellsWfFrom_ext {size lo : Nat} {m m' : Cells w} (h : cellsWfFrom size lo m = true)
    (h' : cellsWfFrom size lo m' = true) (same : ∀ i, readCell m i = readCell m' i) : m = m' := by
  induction m generalizing lo m' with
  | nil =>
    cases m' with
    | nil => rfl
    | cons c m' =>
      simp only [cellsWfFrom, Bool.and_eq_true, decide_eq_true_eq] at h'
      exact absurd (same c.1).symm (by simp [readCell, h'.1.2])
  | cons c m ih =>
    simp only [cellsWfFrom, Bool.and_eq_true, decide_eq_true_eq] at h
    cases m' with
    | nil => exact absurd (same c.1) (by simp [readCell, h.1.2])
    | cons c' m' =>
      simp only [cellsWfFrom, Bool.and_eq_true, decide_eq_true_eq] at h'
      have key : c.1 = c'.1 := by
        rcases Nat.lt_trichotomy c.1 c'.1 with lt | eq | gt
        · have := same c.1
          simp only [readCell, if_true, show c'.1 ≠ c.1 by omega, if_false, readCell_below h'.2 (show c.1 < c'.1 + 1 by omega)] at this
          exact absurd this h.1.2
        · exact eq
        · have := same c'.1
          simp only [readCell, if_true, show c.1 ≠ c'.1 by omega, if_false, readCell_below h.2 (show c'.1 < c.1 + 1 by omega)] at this
          exact absurd this.symm h'.1.2
      have head : c = c' := by
        have := same c.1
        simp only [readCell, if_true, key] at this
        exact Prod.ext key this
      subst head
      congr 1
      refine ih h.2 h'.2 fun i => ?_
      by_cases hi : c.1 = i
      · rw [readCell_below h.2 (by omega), readCell_below h'.2 (by omega)]
      · simpa [readCell, hi] using same i

/-- Canonical files that read the same are the same data. -/
theorem cellsWf_ext {size : Nat} {m m' : Cells w} (h : cellsWf size m = true) (h' : cellsWf size m' = true)
    (same : ∀ i, readCell m i = readCell m' i) : m = m' := cellsWfFrom_ext h h' same

end Sys2Proof.Machine
end

