-- ==== Sys2Proof/Laws/State.lean ====
section
/-! SUPPORT. One lemma per field per shared update of the state, true by rfl. -/

namespace Sys2Proof.Machine

/-! ### finish -/

@[simp] theorem finish_status (c : Status) (s : State) : (finish c s).status = c.code := rfl
@[simp] theorem finish_errflags (c : Status) (s : State) : (finish c s).errflags = s.errflags ||| c.flag := rfl
@[simp] theorem finish_crc (c : Status) (s : State) : (finish c s).crc = s.crc := rfl
@[simp] theorem finish_slave (c : Status) (s : State) : (finish c s).slave = s.slave := rfl
@[simp] theorem finish_func (c : Status) (s : State) : (finish c s).func = s.func := rfl
@[simp] theorem finish_addr (c : Status) (s : State) : (finish c s).addr = s.addr := rfl
@[simp] theorem finish_opnd (c : Status) (s : State) : (finish c s).opnd = s.opnd := rfl
@[simp] theorem finish_txlen (c : Status) (s : State) : (finish c s).txlen = s.txlen := rfl
@[simp] theorem finish_rxlen (c : Status) (s : State) : (finish c s).rxlen = s.rxlen := rfl
@[simp] theorem finish_rxSlave (c : Status) (s : State) : (finish c s).rxSlave = s.rxSlave := rfl
@[simp] theorem finish_rxFunc (c : Status) (s : State) : (finish c s).rxFunc = s.rxFunc := rfl
@[simp] theorem finish_excCode (c : Status) (s : State) : (finish c s).excCode = s.excCode := rfl
@[simp] theorem finish_nvalues (c : Status) (s : State) : (finish c s).nvalues = s.nvalues := rfl
@[simp] theorem finish_rxAddr (c : Status) (s : State) : (finish c s).rxAddr = s.rxAddr := rfl
@[simp] theorem finish_rxOpnd (c : Status) (s : State) : (finish c s).rxOpnd = s.rxOpnd := rfl
@[simp] theorem finish_rxCrc (c : Status) (s : State) : (finish c s).rxCrc = s.rxCrc := rfl
@[simp] theorem finish_plen (c : Status) (s : State) : (finish c s).plen = s.plen := rfl
@[simp] theorem finish_txbuf (c : Status) (s : State) : (finish c s).txbuf = s.txbuf := rfl
@[simp] theorem finish_rxbuf (c : Status) (s : State) : (finish c s).rxbuf = s.rxbuf := rfl
@[simp] theorem finish_values (c : Status) (s : State) : (finish c s).values = s.values := rfl
@[simp] theorem finish_cfg (c : Status) (s : State) : (finish c s).cfg = s.cfg := rfl
@[simp] theorem finish_pending (c : Status) (s : State) : (finish c s).pending = s.pending := rfl
@[simp] theorem finish_returned (c : Status) (s : State) : (finish c s).returned = s.returned := rfl

/-! ### clearErrFlags -/

@[simp] theorem clearErrFlags_status (d : Word) (s : State) : (clearErrFlags d s).status = s.status := rfl
@[simp] theorem clearErrFlags_errflags (d : Word) (s : State) : (clearErrFlags d s).errflags = s.errflags &&& ~~~(d.setWidth 8) := rfl
@[simp] theorem clearErrFlags_crc (d : Word) (s : State) : (clearErrFlags d s).crc = s.crc := rfl
@[simp] theorem clearErrFlags_slave (d : Word) (s : State) : (clearErrFlags d s).slave = s.slave := rfl
@[simp] theorem clearErrFlags_func (d : Word) (s : State) : (clearErrFlags d s).func = s.func := rfl
@[simp] theorem clearErrFlags_addr (d : Word) (s : State) : (clearErrFlags d s).addr = s.addr := rfl
@[simp] theorem clearErrFlags_opnd (d : Word) (s : State) : (clearErrFlags d s).opnd = s.opnd := rfl
@[simp] theorem clearErrFlags_txlen (d : Word) (s : State) : (clearErrFlags d s).txlen = s.txlen := rfl
@[simp] theorem clearErrFlags_rxlen (d : Word) (s : State) : (clearErrFlags d s).rxlen = s.rxlen := rfl
@[simp] theorem clearErrFlags_rxSlave (d : Word) (s : State) : (clearErrFlags d s).rxSlave = s.rxSlave := rfl
@[simp] theorem clearErrFlags_rxFunc (d : Word) (s : State) : (clearErrFlags d s).rxFunc = s.rxFunc := rfl
@[simp] theorem clearErrFlags_excCode (d : Word) (s : State) : (clearErrFlags d s).excCode = s.excCode := rfl
@[simp] theorem clearErrFlags_nvalues (d : Word) (s : State) : (clearErrFlags d s).nvalues = s.nvalues := rfl
@[simp] theorem clearErrFlags_rxAddr (d : Word) (s : State) : (clearErrFlags d s).rxAddr = s.rxAddr := rfl
@[simp] theorem clearErrFlags_rxOpnd (d : Word) (s : State) : (clearErrFlags d s).rxOpnd = s.rxOpnd := rfl
@[simp] theorem clearErrFlags_rxCrc (d : Word) (s : State) : (clearErrFlags d s).rxCrc = s.rxCrc := rfl
@[simp] theorem clearErrFlags_plen (d : Word) (s : State) : (clearErrFlags d s).plen = s.plen := rfl
@[simp] theorem clearErrFlags_txbuf (d : Word) (s : State) : (clearErrFlags d s).txbuf = s.txbuf := rfl
@[simp] theorem clearErrFlags_rxbuf (d : Word) (s : State) : (clearErrFlags d s).rxbuf = s.rxbuf := rfl
@[simp] theorem clearErrFlags_values (d : Word) (s : State) : (clearErrFlags d s).values = s.values := rfl
@[simp] theorem clearErrFlags_cfg (d : Word) (s : State) : (clearErrFlags d s).cfg = s.cfg := rfl
@[simp] theorem clearErrFlags_pending (d : Word) (s : State) : (clearErrFlags d s).pending = s.pending := rfl
@[simp] theorem clearErrFlags_returned (d : Word) (s : State) : (clearErrFlags d s).returned = s.returned := rfl

/-! ### clearResults -/

@[simp] theorem clearResults_status (s : State) : (clearResults s).status = s.status := rfl
@[simp] theorem clearResults_errflags (s : State) : (clearResults s).errflags = s.errflags := rfl
@[simp] theorem clearResults_crc (s : State) : (clearResults s).crc = s.crc := rfl
@[simp] theorem clearResults_slave (s : State) : (clearResults s).slave = s.slave := rfl
@[simp] theorem clearResults_func (s : State) : (clearResults s).func = s.func := rfl
@[simp] theorem clearResults_addr (s : State) : (clearResults s).addr = s.addr := rfl
@[simp] theorem clearResults_opnd (s : State) : (clearResults s).opnd = s.opnd := rfl
@[simp] theorem clearResults_txlen (s : State) : (clearResults s).txlen = s.txlen := rfl
@[simp] theorem clearResults_rxlen (s : State) : (clearResults s).rxlen = s.rxlen := rfl
@[simp] theorem clearResults_rxSlave (s : State) : (clearResults s).rxSlave = 0#8 := rfl
@[simp] theorem clearResults_rxFunc (s : State) : (clearResults s).rxFunc = 0#8 := rfl
@[simp] theorem clearResults_excCode (s : State) : (clearResults s).excCode = 0#8 := rfl
@[simp] theorem clearResults_nvalues (s : State) : (clearResults s).nvalues = 0#8 := rfl
@[simp] theorem clearResults_rxAddr (s : State) : (clearResults s).rxAddr = 0#16 := rfl
@[simp] theorem clearResults_rxOpnd (s : State) : (clearResults s).rxOpnd = 0#16 := rfl
@[simp] theorem clearResults_rxCrc (s : State) : (clearResults s).rxCrc = 0#16 := rfl
@[simp] theorem clearResults_plen (s : State) : (clearResults s).plen = 0#8 := rfl
@[simp] theorem clearResults_txbuf (s : State) : (clearResults s).txbuf = s.txbuf := rfl
@[simp] theorem clearResults_rxbuf (s : State) : (clearResults s).rxbuf = s.rxbuf := rfl
@[simp] theorem clearResults_values (s : State) : (clearResults s).values = [] := rfl
@[simp] theorem clearResults_cfg (s : State) : (clearResults s).cfg = s.cfg := rfl
@[simp] theorem clearResults_pending (s : State) : (clearResults s).pending = s.pending := rfl
@[simp] theorem clearResults_returned (s : State) : (clearResults s).returned = s.returned := rfl

/-! ### resetBlock -/

@[simp] theorem resetBlock_status (s : State) : (resetBlock s).status = 0x00#8 := rfl
@[simp] theorem resetBlock_errflags (s : State) : (resetBlock s).errflags = 0x00#8 := rfl
@[simp] theorem resetBlock_crc (s : State) : (resetBlock s).crc = s.cfg.crcInit := rfl
@[simp] theorem resetBlock_slave (s : State) : (resetBlock s).slave = 0x01#8 := rfl
@[simp] theorem resetBlock_func (s : State) : (resetBlock s).func = 0x00#8 := rfl
@[simp] theorem resetBlock_addr (s : State) : (resetBlock s).addr = 0x0000#16 := rfl
@[simp] theorem resetBlock_opnd (s : State) : (resetBlock s).opnd = 0x0000#16 := rfl
@[simp] theorem resetBlock_txlen (s : State) : (resetBlock s).txlen = 0#9 := rfl
@[simp] theorem resetBlock_rxlen (s : State) : (resetBlock s).rxlen = 0#9 := rfl
@[simp] theorem resetBlock_rxSlave (s : State) : (resetBlock s).rxSlave = 0x00#8 := rfl
@[simp] theorem resetBlock_rxFunc (s : State) : (resetBlock s).rxFunc = 0x00#8 := rfl
@[simp] theorem resetBlock_excCode (s : State) : (resetBlock s).excCode = 0x00#8 := rfl
@[simp] theorem resetBlock_nvalues (s : State) : (resetBlock s).nvalues = 0#8 := rfl
@[simp] theorem resetBlock_rxAddr (s : State) : (resetBlock s).rxAddr = 0x0000#16 := rfl
@[simp] theorem resetBlock_rxOpnd (s : State) : (resetBlock s).rxOpnd = 0x0000#16 := rfl
@[simp] theorem resetBlock_rxCrc (s : State) : (resetBlock s).rxCrc = 0x0000#16 := rfl
@[simp] theorem resetBlock_plen (s : State) : (resetBlock s).plen = 0#8 := rfl
@[simp] theorem resetBlock_txbuf (s : State) : (resetBlock s).txbuf = [] := rfl
@[simp] theorem resetBlock_rxbuf (s : State) : (resetBlock s).rxbuf = [] := rfl
@[simp] theorem resetBlock_values (s : State) : (resetBlock s).values = [] := rfl
@[simp] theorem resetBlock_cfg (s : State) : (resetBlock s).cfg = s.cfg := rfl
@[simp] theorem resetBlock_pending (s : State) : (resetBlock s).pending = s.pending := rfl
@[simp] theorem resetBlock_returned (s : State) : (resetBlock s).returned = s.returned := rfl

end Sys2Proof.Machine
end

