-- ==== Sys2Proof/Laws/Ops.lean ====
section
/-! SUPPORT. One lemma per shared operation that says all it can do. -/

namespace Sys2Proof.Machine

/-- `CrcStage` has three ends: ERR_LENGTH with nothing written, ERR_CRC with CRC and RX_CRC written, and `ok` (R140). -/
theorem crcStage_cases (minLen : Nat) (F : List Byte) (s : State) :
    ((F.length < minLen ∨ 256 < F.length) ∧ crcStage minLen F s = (s, some .errLength)) ∨
    (minLen ≤ F.length ∧ F.length ≤ 256 ∧ crc16 s.cfg.crcInit (frameBody F) ≠ crcField F ∧
      crcStage minLen F s =
        ({ s with crc := crc16 s.cfg.crcInit (frameBody F), rxCrc := crcField F }, some .errCrc)) ∨
    (minLen ≤ F.length ∧ F.length ≤ 256 ∧ crc16 s.cfg.crcInit (frameBody F) = crcField F ∧
      crcStage minLen F s =
        ({ s with
            crc := crcField F, rxCrc := crcField F, rxSlave := byteAt F 0, rxFunc := byteAt F 1,
            plen := BitVec.ofNat 8 (F.length - 4) }, Option.none)) := by
  by_cases hl : F.length < minLen ∨ 256 < F.length
  · exact .inl ⟨hl, by simp [crcStage, hl]⟩
  · have h1 : minLen ≤ F.length := by omega
    have h2 : F.length ≤ 256 := by omega
    by_cases hc : crc16 s.cfg.crcInit (frameBody F) = crcField F
    · exact .inr (.inr ⟨h1, h2, hc, by simp [crcStage, hl, hc]⟩)
    · exact .inr (.inl ⟨h1, h2, hc, by simp [crcStage, hl, hc]⟩)

/-- What DEC_RESP may write: STATUS and ERRFLAGS through one `finish`, CRC, and the result registers (R141). -/
theorem decodeResp_frame (F : List Byte) (s : State) :
    ∃ c crc rs rf ec nv ra ro rc pl vs, c ≠ Status.none ∧ decodeResp F s = finish c
      { s with
        crc := crc, rxSlave := rs, rxFunc := rf, excCode := ec, nvalues := nv, rxAddr := ra, rxOpnd := ro, rxCrc := rc,
        plen := pl, values := vs } := by
  simp only [decodeResp]
  split
  · exact ⟨_, s.crc, _, _, _, _, _, _, _, _, _, Status.noConfusion, rfl⟩
  · rcases crcStage_cases minRespLen F (clearResults s) with ⟨_, h⟩ | ⟨_, _, _, h⟩ | ⟨_, _, _, h⟩
    · rw [h]; exact ⟨_, s.crc, _, _, _, _, _, _, _, _, _, Status.noConfusion, rfl⟩
    · rw [h]; exact ⟨_, _, _, _, _, _, _, _, _, _, _, Status.noConfusion, rfl⟩
    · simp only [h, selectPath, exceptionPath, readPath, writePath]
      split
      · exact ⟨_, _, _, _, _, _, _, _, _, _, _, Status.noConfusion, rfl⟩
      split
      · split <;> exact ⟨_, _, _, _, _, _, _, _, _, _, _, Status.noConfusion, rfl⟩
      split
      · exact ⟨_, _, _, _, _, _, _, _, _, _, _, Status.noConfusion, rfl⟩
      split
      · split
        · exact ⟨_, _, _, _, _, _, _, _, _, _, _, Status.noConfusion, rfl⟩
        · split <;> exact ⟨_, _, _, _, _, _, _, _, _, _, _, Status.noConfusion, rfl⟩
      · split <;> exact ⟨_, _, _, _, _, _, _, _, _, _, _, Status.noConfusion, rfl⟩

/-- DEC_FRAME's split writes RX_ADDR and RX_OPND, as far as the payload reaches (R150). -/
theorem splitPayload_eq (F : List Byte) (s : State) :
    splitPayload F s =
      { s with
        rxAddr := if 2 ≤ s.plen.toNat then be16 (byteAt F 2) (byteAt F 3) else s.rxAddr
        rxOpnd := if 4 ≤ s.plen.toNat then be16 (byteAt F 4) (byteAt F 5) else s.rxOpnd } := by
  unfold splitPayload
  by_cases h2 : 2 ≤ s.plen.toNat
  · by_cases h4 : 4 ≤ s.plen.toNat <;> simp [h2, h4]
  · simp [h2, show ¬ 4 ≤ s.plen.toNat by omega]

/-- What DEC_FRAME may write (R150): no value, no exception code. -/
theorem decodeAnyFrame_frame (F : List Byte) (s : State) :
    ∃ c crc rs rf ra ro rc pl, c ≠ Status.none ∧ decodeAnyFrame F s = finish c
      { s with
        crc := crc, rxSlave := rs, rxFunc := rf, excCode := 0#8, nvalues := 0#8, rxAddr := ra, rxOpnd := ro,
        rxCrc := rc, plen := pl, values := [] } := by
  unfold decodeAnyFrame
  rcases crcStage_cases minFrameLen F (clearResults s) with ⟨_, h⟩ | ⟨_, _, _, h⟩ | ⟨_, _, _, h⟩
  · rw [h]; exact ⟨_, s.crc, _, _, _, _, _, _, Status.noConfusion, rfl⟩
  · rw [h]; exact ⟨_, _, _, _, _, _, _, _, Status.noConfusion, rfl⟩
  · simp only [h, splitPayload_eq]; exact ⟨_, _, _, _, _, _, _, _, Status.noConfusion, rfl⟩

/-- ENC_READ's two ends (R120). -/
theorem buildReadRequest_cases (slave : Byte) (addr count : Word) (s : State) :
    ((count.toNat < 1 ∨ 125 < count.toNat) ∧
      buildReadRequest slave addr count s = finish .errOperand { s with txlen := 0#9 }) ∨
    (1 ≤ count.toNat ∧ count.toNat ≤ 125 ∧
      buildReadRequest slave addr count s = buildRequest 0x03#8 slave addr count s) := by
  by_cases h : count.toNat < 1 ∨ 125 < count.toNat
  · exact .inl ⟨h, by unfold buildReadRequest; rw [if_pos h]⟩
  · exact .inr ⟨by omega, by omega, by unfold buildReadRequest; rw [if_neg h]⟩

/-- What a built request leaves in TXBUF: the sealed frame in entries 0 to 7, the rest untouched (R120, R121). -/
theorem buildRequest_txbuf (fc slave : Byte) (addr operand : Word) (s : State) (i : Nat) :
    readCell (buildRequest fc slave addr operand s).txbuf i =
      if i < 8 then byteAt (sealFrame s.cfg.crcInit (requestBody fc slave addr operand)) i else readCell s.txbuf i := by
  simp only [buildRequest, finish_txbuf, readCell_writeCells, List.length_append, requestBody_length, crcBytes_length]
  simp [sealFrame, byteAt]

/-- A built request changes nothing but TXBUF, TXLEN, CRC, FUNC, STATUS (R120, R121). -/
theorem buildRequest_eq (fc slave : Byte) (addr operand : Word) (s : State) :
    buildRequest fc slave addr operand s =
      { s with
        txbuf := writeCells s.txbuf 0 (sealFrame s.cfg.crcInit (requestBody fc slave addr operand)), txlen := 8#9,
        crc := crc16 s.cfg.crcInit (requestBody fc slave addr operand), func := fc, status := 0x01#8 } := by
  simp [buildRequest, finish, sealFrame, Status.code, Status.flag]

@[simp] theorem received_length (s : State) : (received s).length = s.rxlen.toNat := by simp [received]

@[simp] theorem transmitted_length (s : State) : (transmitted s).length = s.txlen.toNat := by simp [transmitted]

theorem byteAt_received (s : State) (i : Nat) (h : i < s.rxlen.toNat) : byteAt (received s) i = readCell s.rxbuf i := by
  simp [byteAt, received, h]

theorem byteAt_transmitted (s : State) (i : Nat) (h : i < s.txlen.toNat) :
    byteAt (transmitted s) i = readCell s.txbuf i := by
  simp [byteAt, transmitted, h]

/-- LOOP: RXBUF takes the transmit frame, RXLEN its length (R171). -/
theorem loopBack_rxbuf (s : State) (h : s.txlen.toNat ≤ 256) (i : Nat) :
    readCell (loopBack s).rxbuf i = if i < s.txlen.toNat then readCell s.txbuf i else readCell s.rxbuf i := by
  have hl : ((transmitted s).take maxFrame) = transmitted s := List.take_of_length_le (by simpa using h)
  simp only [loopBack, finish_rxbuf, hl, readCell_writeCells, transmitted_length]
  by_cases hi : i < s.txlen.toNat
  · simp [hi, transmitted]
  · simp [hi]

end Sys2Proof.Machine
end

