-- ==== Sys2Proof/Laws/Decoder.lean ====
section
/-! SUPPORT. DEC_RESP and DEC_FRAME by the end they reach: one equation per end. -/

namespace Sys2Proof.Machine

/-- The state after the CRC stage of the frame F passed (R42, R140). -/
def afterStage (F : List Byte) (s : State) : State :=
  { clearResults s with
    crc := crcField F, rxCrc := crcField F, rxSlave := byteAt F 0, rxFunc := byteAt F 1,
    plen := BitVec.ofNat 8 (F.length - 4) }

theorem crcStage_length {m : Nat} {F : List Byte} {s : State} (h : F.length < m ∨ 256 < F.length) :
    crcStage m F s = (s, some .errLength) := by
  rcases crcStage_cases m F s with ⟨_, e⟩ | ⟨_, _, _, e⟩ | ⟨_, _, _, e⟩
  · exact e
  all_goals omega

theorem crcStage_crc {m : Nat} {F : List Byte} {s : State} (h₁ : m ≤ F.length) (h₂ : F.length ≤ 256)
    (h : crc16 s.cfg.crcInit (frameBody F) ≠ crcField F) :
    crcStage m F s = ({ s with crc := crc16 s.cfg.crcInit (frameBody F), rxCrc := crcField F }, some .errCrc) := by
  rcases crcStage_cases m F s with ⟨_, e⟩ | ⟨_, _, _, e⟩ | ⟨_, _, h', e⟩
  · omega
  · exact e
  · exact absurd h' h

theorem crcStage_ok {m : Nat} {F : List Byte} {s : State} (h₁ : m ≤ F.length) (h₂ : F.length ≤ 256)
    (h : crc16 s.cfg.crcInit (frameBody F) = crcField F) :
    crcStage m F (clearResults s) = (afterStage F s, Option.none) := by
  rcases crcStage_cases m F (clearResults s) with ⟨_, e⟩ | ⟨_, _, h', e⟩ | ⟨_, _, _, e⟩
  · omega
  · exact absurd h h'
  · exact e

/-- DEC_RESP past the CRC stage (R141). -/
theorem decodeResp_afterStage {F : List Byte} {s : State} (hf : s.func = 0x03#8 ∨ s.func = 0x06#8)
    (h₁ : 5 ≤ F.length) (h₂ : F.length ≤ 256) (h : crc16 s.cfg.crcInit (frameBody F) = crcField F) :
    decodeResp F s = selectPath F (afterStage F s) := by
  simp only [decodeResp]
  rw [if_neg (by simp only [clearResults_func]; rcases hf with h | h <;> simp [h]), crcStage_ok h₁ h₂ h]

/-- The path DEC_RESP takes past the CRC stage (R141). -/
theorem selectPath_afterStage (F : List Byte) (s : State) :
    selectPath F (afterStage F s) =
      if byteAt F 0 ≠ s.slave then finish .errSlave (afterStage F s)
      else if byteAt F 1 = s.func ||| 0x80#8 then exceptionPath F (afterStage F s)
      else if byteAt F 1 ≠ s.func then finish .errFunction (afterStage F s)
      else if s.func = 0x03#8 then readPath F (afterStage F s)
      else writePath F (afterStage F s) := rfl

/-- DEC_FRAME past the CRC stage (R150). -/
theorem decodeAnyFrame_afterStage {F : List Byte} {s : State} (h₁ : 4 ≤ F.length) (h₂ : F.length ≤ 256)
    (h : crc16 s.cfg.crcInit (frameBody F) = crcField F) :
    decodeAnyFrame F s = finish .okFrame (splitPayload F (afterStage F s)) := by
  unfold decodeAnyFrame
  rw [crcStage_ok h₁ h₂ h]

/-- A valid function code is no exception function code. -/
theorem func_ne_exception {f : Byte} (h : f = 0x03#8 ∨ f = 0x06#8) : f ≠ f ||| 0x80#8 := by
  rcases h with rfl | rfl <;> decide

theorem byteCountOk_iff (bc : Byte) :
    byteCountOk bc = true ↔ bc ≠ 0#8 ∧ bc.getLsbD 0 = false ∧ bc.toNat ≤ 250 := by
  simp [byteCountOk]
  tauto

end Sys2Proof.Machine
end

