-- ==== Sys2Proof/Laws/PerInstr.lean ====
section
/-! SUPPORT. Statements about every instruction as syntax, one lemma per constructor. -/

namespace Sys2Proof

/-- How many bytes an encoding occupies (30_encoding.md R70, R74). -/
def Encoded.size : Encoded → Nat
  | .command _ => 2
  | .request F | .response F => F.length

end Sys2Proof

namespace Sys2Proof.Laws.EncodingLength

/-- A well-formed instruction's encoding is one 16-bit word, or a frame of 5 to 255 bytes (R70, R76 to R80). -/
def Statement (i : Instr) : Prop :=
  ∀ init : Word, i.WellFormed = true →
    (encode init i).size = 2 ∨ (5 ≤ (encode init i).size ∧ (encode init i).size ≤ 255)

theorem nop : Statement .nop := fun _ _ => .inl rfl
theorem crcInit : Statement .crcInit := fun _ _ => .inl rfl
theorem crcByte (imm8 : Byte) : Statement (.crcByte imm8) := fun _ _ => .inl rfl
theorem encRead : Statement .encRead := fun _ _ => .inl rfl
theorem encWrite : Statement .encWrite := fun _ _ => .inl rfl
theorem decResp : Statement .decResp := fun _ _ => .inl rfl
theorem decFrame : Statement .decFrame := fun _ _ => .inl rfl
theorem loop : Statement .loop := fun _ _ => .inl rfl
theorem illegal (w : Word) : Statement (.illegal w) := fun _ _ => .inl rfl
theorem frameReadRequest (slave : Byte) (addr count : Word) : Statement (.frameReadRequest slave addr count) :=
  fun _ _ => .inr (by simp [encode, Encoded.size])
theorem frameWriteRequest (slave : Byte) (addr value : Word) : Statement (.frameWriteRequest slave addr value) :=
  fun _ _ => .inr (by simp [encode, Encoded.size])
theorem frameReadResponse (slave : Byte) (values : List Word) (crc : Word) :
    Statement (.frameReadResponse slave values crc) := by
  intro _ h
  simp only [Instr.WellFormed, Bool.and_eq_true, decide_eq_true_eq, nvaluesMax] at h
  simp only [encode, Encoded.size, readResponseBytes_length]
  omega
theorem frameWriteResponse (slave : Byte) (addr value crc : Word) :
    Statement (.frameWriteResponse slave addr value crc) :=
  fun _ _ => .inr (by simp [encode, Encoded.size])
theorem frameExceptionResponse (slave : Byte) (fc : FuncCode) (code : Byte) (crc : Word) :
    Statement (.frameExceptionResponse slave fc code crc) :=
  fun _ _ => .inr (by simp [encode, Encoded.size])

end Sys2Proof.Laws.EncodingLength
end

