-- ==== Sys2Proof/Laws/Port.lean ====
section
/-! SUPPORT. What serving one input does: a step by the kind of its input, and the host accesses inverted. -/

namespace Sys2Proof.Machine

/-- With no pending input the block waits. -/
theorem step_idle {s : State} (h : s.pending = []) : step s = .next s := by simp [step, serveNext, h]

theorem step_read {s : State} {a : PortAddr} {rest : List Input} (h : s.pending = .read a :: rest) :
    step s = hostRead a { s with pending := rest } := by simp [step, serveNext, h, acceptInput]

theorem step_write {s : State} {a : PortAddr} {d : Word} {rest : List Input} (h : s.pending = .write a d :: rest) :
    step s = hostWrite a d { s with pending := rest } := by simp [step, serveNext, h, acceptInput]

theorem step_reset {s : State} {rest : List Input} (h : s.pending = .reset :: rest) :
    step s = .next (resetBlock { s with pending := rest }) := by simp [step, serveNext, h, acceptInput]

/-- The four kinds of step. -/
theorem step_cases (s : State) :
    (s.pending = [] ∧ step s = .next s) ∨
    (∃ a rest, s.pending = .read a :: rest ∧ step s = hostRead a { s with pending := rest }) ∨
    (∃ a d rest, s.pending = .write a d :: rest ∧ step s = hostWrite a d { s with pending := rest }) ∨
    (∃ rest, s.pending = .reset :: rest ∧ step s = .next (resetBlock { s with pending := rest })) := by
  rcases hp : s.pending with _ | ⟨a | ⟨a, d⟩ | _, rest⟩
  · exact .inl ⟨rfl, step_idle hp⟩
  · exact .inr (.inl ⟨a, rest, rfl, step_read hp⟩)
  · exact .inr (.inr (.inl ⟨a, d, rest, rfl, step_write hp⟩))
  · exact .inr (.inr (.inr ⟨rest, rfl, step_reset hp⟩))

/-- A host read that ends well was of a mapped register, and only appended its word (R52). -/
theorem hostRead_next {a : PortAddr} {s t : State} (h : hostRead a s = .next t) :
    ∃ r, portReg a = some r ∧ t = { s with returned := s.returned ++ [readReg r s] } := by
  unfold hostRead at h
  split at h
  · cases h
  · next r hr => cases h; exact ⟨r, hr, rfl⟩

/-- A host write that ends well acted by the access type of a mapped register (R53). -/
theorem hostWrite_next {a : PortAddr} {d : Word} {s t : State} (h : hostWrite a d s = .next t) :
    ∃ r, portReg a = some r ∧
      ((access r = .wo ∧ exec (decodeCommand d) s = .next t) ∨ (access r = .w1c ∧ t = clearErrFlags d s) ∨
        (access r = .rw ∧ t = writeReg r d s) ∨ (access r = .ro ∧ t = s)) := by
  unfold hostWrite at h
  split at h
  · cases h
  · next r hr =>
    refine ⟨r, hr, ?_⟩
    split at h
    · next ha => exact .inl ⟨ha, h⟩
    · next ha => cases h; exact .inr (.inl ⟨ha, rfl⟩)
    · next ha => cases h; exact .inr (.inr (.inl ⟨ha, rfl⟩))
    · next ha => cases h; exact .inr (.inr (.inr ⟨ha, rfl⟩))

/-- A write to an RW register leaves the host side, STATUS, ERRFLAGS and the transmit side alone. -/
theorem writeReg_keeps (r : PortReg) (d : Word) (s : State) :
    (writeReg r d s).cfg = s.cfg ∧ (writeReg r d s).pending = s.pending ∧ (writeReg r d s).returned = s.returned ∧
    (writeReg r d s).status = s.status ∧ (writeReg r d s).errflags = s.errflags ∧ (writeReg r d s).txbuf = s.txbuf ∧
    (writeReg r d s).txlen = s.txlen := by
  cases r <;> exact ⟨rfl, rfl, rfl, rfl, rfl, rfl, rfl⟩

theorem run_step {s t : State} (n : Nat) (h : step s = .next t) :
    Host.Core.run Sys2Proof.core (n + 1) s = Host.Core.run Sys2Proof.core n t := by
  simp only [Host.Core.run]
  rw [show Sys2Proof.core.step s = .next t from h]

end Sys2Proof.Machine
end

