-- ==== Sys2Proof/Tests/Slice0.lean ====
section
/-! SUPPORT. Tests: ill-formed terms refused, decodings written out from the spec, one step per instruction with the
expected values of spec/95_test_vectors.md, and for every obligation with hypotheses a state and operands that meet them. -/

namespace Sys2Proof.Tests

open Sys2Proof Sys2Proof.Machine

set_option Elab.async false

/-- Reset, with FUNC as given and the frame F received. -/
def receiving (func : Byte) (F : List Byte) : State :=
  { State.reset with func := func, rxbuf := writeCells [] 0 F, rxlen := BitVec.ofNat 9 F.length }

/-- Reset, with the operands of a request. -/
def requesting (slave : Byte) (addr opnd : Word) : State :=
  { State.reset with slave := slave, addr := addr, opnd := opnd }

/-- The outcome is a next state with the property p. -/
def ends (o : Host.Outcome State Fault Refusal) (p : State → Bool) : Bool :=
  match o with
  | .next t => p t
  | .fault _ | .refused _ => false

/-- The outcome is a fault with the reason r. -/
def faults (o : Host.Outcome State Fault Refusal) (r : Fault) : Bool :=
  match o with
  | .fault r' => decide (r' = r)
  | .next _ | .refused _ => false

/-- The first `n` bytes of TXBUF. -/
def txBytes (n : Nat) (s : State) : List Byte := (List.range n).map (readCell s.txbuf)

/-! ### WellFormed refuses -/

theorem test_illformed_illegal_that_is_enc_read : (Instr.illegal 0x0003#16).WellFormed = false := by decide
theorem test_illformed_illegal_that_is_crc_byte : (Instr.illegal 0xFF02#16).WellFormed = false := by decide
theorem test_illformed_count_zero : (Instr.frameReadRequest 0x01#8 0x0101#16 0#16).WellFormed = false := by decide
theorem test_illformed_count_126 : (Instr.frameReadRequest 0x01#8 0x0101#16 126#16).WellFormed = false := by decide
theorem test_illformed_no_value : (Instr.frameReadResponse 0x01#8 [] 0#16).WellFormed = false := by decide
theorem test_illformed_126_values :
    (Instr.frameReadResponse 0x01#8 (List.replicate 126 0#16) 0#16).WellFormed = false := by decide +kernel

/-! ### Decoding, each word written out from the spec's encoding (30_encoding.md R72, R76 to R80) -/

theorem test_decode_nop : decodeCommand 0b00000000_00000000#16 = .nop := by decide
theorem test_decode_crc_init : decodeCommand 0b00000000_00000001#16 = .crcInit := by decide
theorem test_decode_crc_byte : decodeCommand 0b10100101_00000010#16 = .crcByte 0xA5#8 := by decide
theorem test_decode_enc_read : decodeCommand 0b00000000_00000011#16 = .encRead := by decide
theorem test_decode_enc_write : decodeCommand 0b00000000_00000100#16 = .encWrite := by decide
theorem test_decode_dec_resp : decodeCommand 0b00000000_00000101#16 = .decResp := by decide
theorem test_decode_dec_frame : decodeCommand 0b00000000_00000110#16 = .decFrame := by decide
theorem test_decode_loop : decodeCommand 0b00000000_00000111#16 = .loop := by decide
theorem test_decode_illegal_op : decodeCommand 0b00000000_00001000#16 = .illegal 0x0008#16 := by decide
theorem test_decode_illegal_imm8 : decodeCommand 0b00000001_00000011#16 = .illegal 0x0103#16 := by decide

/-- The bytes `01 03 01 01 00 01 D4 36` (95_test_vectors.md W3), the first in the low bits. -/
theorem test_decode_frame_read_request :
    decodeTableWord 64 0x36D4010001010301 = some (.frameReadRequest 0x01#8 0x0101#16 0x0001#16) := by decide +kernel
/-- `01 06 DF 00 00 01 73 DE` (W4). -/
theorem test_decode_frame_write_request :
    decodeTableWord 64 0xDE73010000DF0601 = some (.frameWriteRequest 0x01#8 0xDF00#16 0x0001#16) := by decide +kernel
/-- `01 03 02 00 F5 78 03` (W3). -/
theorem test_decode_frame_read_response :
    decodeTableWord 56 0x0378F500020301 = some (.frameReadResponse 0x01#8 [0x00F5#16] 0x0378#16) := by decide +kernel
/-- `01 06 DF 00 00 01 73 DE` received is the echo (R79). -/
theorem test_decode_frame_write_response :
    decodeResponse [0x01#8, 0x06#8, 0xDF#8, 0x00#8, 0x00#8, 0x01#8, 0x73#8, 0xDE#8] =
      .ok (.frameWriteResponse 0x01#8 0xDF00#16 0x0001#16 0xDE73#16) := by decide +kernel
/-- `01 86 02 C3 A1` (W4). -/
theorem test_decode_frame_exception_response :
    decodeTableWord 40 0xA1C3028601 = some (.frameExceptionResponse 0x01#8 .writeSingle 0x02#8 0xA1C3#16) := by
  decide +kernel
/-- An odd byte count is no read response (R78), a fourth function code none at all (R81). -/
theorem test_decode_reserved_frames :
    decodeResponse [0x01#8, 0x03#8, 0x03#8, 0x00#8, 0xF5#8, 0x00#8, 0x02#8, 0xDE#8] = .error .byteCount ∧
    decodeResponse [0x01#8, 0x04#8, 0x02#8, 0x00#8, 0xF5#8, 0x79#8, 0x77#8] = .error .functionCode := by decide +kernel

/-! ### One step per instruction (expected values: spec/95_test_vectors.md, or the rule named) -/

/-- 43_utility.md R170's example: NOP leaves STATUS = 0x13. -/
theorem test_nop_keeps_status : ends (step ({ State.reset with status := 0x13#8 }.withFetchWord 16 0x0000))
    (fun t => t.status == 0x13#8) = true := by decide +kernel
/-- Vector C1. -/
theorem test_crc_init : ends (step ({ State.reset with crc := 0x1234#16 }.withFetchWord 16 0x0001))
    (fun t => t.crc == 0xFFFF#16 && t.status == 0x01#8) = true := by decide +kernel
/-- Vector C2. -/
theorem test_crc_byte_01 : ends (step (State.reset.withFetchWord 16 0x0102)) (fun t => t.crc == 0x807E#16) = true := by
  decide +kernel
/-- Vector C6. -/
theorem test_crc_byte_80 : ends (step ({ State.reset with crc := 0#16 }.withFetchWord 16 0x8002))
    (fun t => t.crc == 0xA001#16) = true := by decide +kernel
/-- Vector E3. -/
theorem test_enc_read : ends (exec .encRead (requesting 0xFF#8 0xFFFF#16 0x007D#16))
    (fun t => txBytes 9 t == [0xFF#8, 0x03#8, 0xFF#8, 0xFF#8, 0x00#8, 0x7D#8, 0x90#8, 0x11#8, 0x00#8] && t.func == 0x03#8
      && t.txlen == 8#9) = true := by decide +kernel
/-- Vector E7: the count 126. -/
theorem test_enc_read_count_126 : ends (exec .encRead (requesting 0x01#8 0x0101#16 0x007E#16))
    (fun t => t.status == 0x11#8 && t.errflags == 0x02#8 && t.crc == 0xFFFF#16) = true := by decide +kernel
/-- Vector V1. -/
theorem test_enc_write : ends (exec .encWrite (requesting 0x01#8 0xDF00#16 0x0001#16))
    (fun t => txBytes 8 t == [0x01#8, 0x06#8, 0xDF#8, 0x00#8, 0x00#8, 0x01#8, 0x73#8, 0xDE#8] && t.crc == 0xDE73#16) =
    true := by decide +kernel
/-- Vector D2. -/
theorem test_dec_resp_two_values :
    ends (exec .decResp (receiving 0x03#8 [0x01#8, 0x03#8, 0x04#8, 0x00#8, 0x01#8, 0x00#8, 0x02#8, 0x2A#8, 0x32#8]))
      (fun t => t.status == 0x02#8 && t.nvalues == 2#8 && readCell t.values 1 == 0x0002#16) = true := by decide +kernel
/-- Vector D14: a corrupted CRC low byte. -/
theorem test_dec_resp_bad_crc :
    ends (exec .decResp (receiving 0x03#8 [0x01#8, 0x03#8, 0x02#8, 0x00#8, 0xF5#8, 0x79#8, 0x03#8]))
      (fun t => t.status == 0x13#8 && t.errflags == 0x08#8 && t.rxCrc == 0x0379#16 && t.nvalues == 0#8) = true := by
  decide +kernel
/-- 42_decode.md R150's example: an empty payload. -/
theorem test_dec_frame_empty : ends (exec .decFrame (receiving 0x00#8 [0x01#8, 0x03#8, 0x40#8, 0x21#8]))
    (fun t => t.status == 0x04#8 && t.rxFunc == 0x03#8 && t.plen == 0#8 && t.rxAddr == 0#16) = true := by decide +kernel
/-- 43_utility.md R171's corner case: with TXLEN = 0 nothing is copied and RXLEN is 0. -/
theorem test_loop_empty : ends (exec .loop (receiving 0x00#8 [0x01#8, 0x03#8, 0x40#8, 0x21#8]))
    (fun t => t.rxlen == 0#9 && readCell t.rxbuf 3 == 0x21#8 && t.status == 0x01#8) = true := by decide +kernel
/-- 43_utility.md R172's example. -/
theorem test_illegal : ends (step (State.reset.withFetchWord 16 0x0103))
    (fun t => t.status == 0x10#8 && t.errflags == 0x01#8 && t.txlen == 0#9) = true := by decide +kernel
/-- Vector E2, presented as a frame. -/
theorem test_frame_read_request : ends (step (State.reset.withFetchWord 64 0xCDC50A0000000301))
    (fun t => t.crc == 0xCDC5#16 && t.func == 0x03#8 && readCell t.txbuf 5 == 0x0A#8) = true := by decide +kernel
/-- Vector V1, presented as a frame. -/
theorem test_frame_write_request : ends (step (State.reset.withFetchWord 64 0xDE73010000DF0601))
    (fun t => t.crc == 0xDE73#16 && t.func == 0x06#8 && t.txlen == 8#9) = true := by decide +kernel
/-- Vector D1. -/
theorem test_frame_read_response :
    ends (step ({ State.reset with func := 0x03#8 }.withFetchWord 56 0x0378F500020301))
      (fun t => t.status == 0x02#8 && readCell t.values 0 == 0x00F5#16 && t.nvalues == 1#8) = true := by decide +kernel
/-- Vector D5. -/
theorem test_frame_write_response :
    ends (exec (.frameWriteResponse 0x01#8 0xDF00#16 0x0001#16 0xDE73#16) { State.reset with func := 0x06#8 })
      (fun t => t.status == 0x02#8 && t.rxAddr == 0xDF00#16 && readCell t.values 0 == 0x0001#16) = true := by
  decide +kernel
/-- Vector D6. -/
theorem test_frame_exception_response :
    ends (step ({ State.reset with func := 0x06#8 }.withFetchWord 40 0xA1C3028601))
      (fun t => t.status == 0x03#8 && t.excCode == 0x02#8 && t.errflags == 0x80#8) = true := by decide +kernel
/-- 20_memory.md R51: the edges of the unmapped ranges. -/
theorem test_bus_error :
    faults (hostRead 0x012#12 State.reset) (.busError 0x012#12) = true ∧
    faults (hostWrite 0x0FF#12 0x0005#16 State.reset) (.busError 0x0FF#12) = true ∧
    faults (hostRead 0x37D#12 State.reset) (.busError 0x37D#12) = true ∧
    faults (hostWrite 0xFFF#12 0#16 State.reset) (.busError 0xFFF#12) = true := by decide +kernel
theorem test_reset_memory_wf : Memory.wf State.reset.txbuf = true ∧ Memory.wf State.reset.rxbuf = true ∧
    cellsWf nvaluesMax State.reset.values = true := by decide

/-! ### Witnesses: states and operands that meet each obligation's hypotheses, clause by clause, at the edges -/

/-- Reset, with FUNC as given and a frame of this body received, its CRC right. -/
def good (func : Byte) (body : List Byte) : State := receiving func (sealFrame 0xFFFF#16 body)

/-- Reset, with this input next. -/
def facing (x : Input) : State := { State.reset with pending := [x] }

/-- The longest read response's body: bc = 250. -/
def longBody : List Byte := [0x01#8, 0x03#8, 0xFA#8] ++ List.replicate 250 0x5A#8

@[simp] theorem longBody_length : longBody.length = 253 := by decide +kernel

theorem readCell_receiving (func : Byte) (F : List Byte) (i : Nat) (h : i < F.length) :
    readCell (receiving func F).rxbuf i = byteAt F i := by
  simp [receiving, readCell_writeCells, h, byteAt]

theorem rxlen_receiving (func : Byte) (F : List Byte) (h : F.length ≤ 256) :
    (receiving func F).rxlen.toNat = F.length := by
  simp [receiving]
  omega

theorem received_receiving (func : Byte) (F : List Byte) (h : F.length ≤ 256) : received (receiving func F) = F := by
  refine List.ext_getElem (by simp [rxlen_receiving func F h]) fun i _ h₂ => ?_
  simp [received, readCell_receiving func F i h₂, byteAt, h₂]

theorem crcGood_good (func : Byte) (body : List Byte) (h : body.length ≤ 254) : CrcGood (good func body) := by
  unfold CrcGood good
  rw [received_receiving _ _ (by simp; omega)]
  simp [sealFrame, receiving, State.reset, State.resetWith, Config.default]

/-- All that a witness about an exec needs: it has a next state. -/
def runs (i : Instr) (s : State) : Prop := ∃ t, exec i s = .next t

theorem witness_ResetSetsEveryRegister : (facing .reset).pending = .reset :: [] := rfl
theorem witness_CommandRegisterPerformsTheWord :
    (facing (.write 0x000#12 0xFF02#16)).pending = .write 0x000#12 0xFF02#16 :: [] ∧
    (facing (.read 0x000#12)).pending = .read 0x000#12 :: [] := ⟨rfl, rfl⟩
theorem witness_AddressMapIsTheTable :
    portReg 0x100#12 = some (.txbuf 0) ∧ portReg 0x1FF#12 = some (.txbuf 255) ∧ portReg 0x200#12 = some (.rxbuf 0) ∧
    portReg 0x2FF#12 = some (.rxbuf 255) ∧ portReg 0x300#12 = some (.values 0) ∧
    portReg 0x37C#12 = some (.values 124) := by decide
theorem witness_HostReadReturnsTheRegister :
    (facing (.read 0x011#12)).pending = .read 0x011#12 :: [] ∧
    (0x100 ≤ (0x1FF#12).toNat ∧ (0x1FF#12).toNat ≤ 0x1FF) ∧ (0x200 ≤ (0x200#12).toNat ∧ (0x200#12).toNat ≤ 0x2FF) ∧
    (0x300 ≤ (0x37C#12).toNat ∧ (0x37C#12).toNat ≤ 0x37C) ∧ Unmapped 0x012#12 ∧ Unmapped 0x0FF#12 ∧
    Unmapped 0x37D#12 ∧ Unmapped 0xFFF#12 := by unfold Unmapped; decide
theorem witness_HostWriteActsByAccessType :
    (facing (.write 0x2FF#12 0xA5A5#16)).pending = .write 0x2FF#12 0xA5A5#16 :: [] ∧
    (0x200 ≤ (0x2FF#12).toNat ∧ (0x2FF#12).toNat ≤ 0x2FF) ∧ (0x00A ≤ (0x011#12).toNat ∧ (0x011#12).toNat ≤ 0x011) ∧
    (0x100 ≤ (0x100#12).toNat ∧ (0x100#12).toNat ≤ 0x1FF) ∧ (0x300 ≤ (0x300#12).toNat ∧ (0x300#12).toNat ≤ 0x37C) ∧
    Unmapped 0x012#12 ∧ Unmapped 0x37D#12 := by unfold Unmapped; decide
theorem witness_OnlyUnmappedAccessFaults :
    (facing (.read 0x0FF#12)).pending = .read 0x0FF#12 :: [] ∧ Unmapped 0x0FF#12 ∧ ¬Unmapped 0x011#12 ∧
    ¬Unmapped 0x100#12 ∧ ¬Unmapped 0x37C#12 := by unfold Unmapped; decide
theorem witness_MappedHostNeverStops : (facing (.write 0x37C#12 0#16)).AllMapped = true := by decide
theorem witness_ErrFlagsClearedOnlyByHostOrReset :
    ends (step { facing (.write 0x002#12 0x0008#16) with errflags := 0xFF#8 }) (fun t => !t.errflags.getLsbD 3) = true ∧
    ends (step { facing .reset with errflags := 0xFF#8 }) (fun t => !t.errflags.getLsbD 3) = true := by decide +kernel
theorem witness_StatusWrittenOnlyByCommandsAndReset :
    ends (step (facing (.write 0x000#12 0x0001#16))) (fun t => t.status != 0x00#8) = true ∧
    ends (step { facing .reset with status := 0x13#8 }) (fun t => t.status != 0x13#8) = true := by decide +kernel
theorem witness_FinishRecordsItsCode : Instr.crcInit ≠ .nop ∧ runs .crcInit State.reset := ⟨by decide, _, rfl⟩
theorem witness_InstructionsLeaveTheHostSide : runs .decResp (facing .reset) := ⟨_, rfl⟩
theorem witness_CommandWordDecodesByTheMap :
    opField 0xFF02#16 = 0x02#8 ∧ (opField 0x0000#16 = 0x00#8 ∧ imm8Field 0x0000#16 = 0x00#8) ∧
    (opField 0x0001#16 = 0x01#8 ∧ imm8Field 0x0001#16 = 0x00#8) ∧
    (opField 0x0003#16 = 0x03#8 ∧ imm8Field 0x0003#16 = 0x00#8) ∧
    (opField 0x0004#16 = 0x04#8 ∧ imm8Field 0x0004#16 = 0x00#8) ∧
    (opField 0x0005#16 = 0x05#8 ∧ imm8Field 0x0005#16 = 0x00#8) ∧
    (opField 0x0006#16 = 0x06#8 ∧ imm8Field 0x0006#16 = 0x00#8) ∧
    (opField 0x0007#16 = 0x07#8 ∧ imm8Field 0x0007#16 = 0x00#8) ∧
    8 ≤ (opField 0x0008#16).toNat ∧ 8 ≤ (opField 0xFFFF#16).toNat ∧
    (opField 0x0100#16 ≠ 0x02#8 ∧ imm8Field 0x0100#16 ≠ 0x00#8) := by decide
theorem witness_EncodeThenDecode :
    (Instr.illegal 0x0008#16).WellFormed = true ∧ (Instr.illegal 0x0107#16).WellFormed = true ∧
    (Instr.frameReadRequest 0x00#8 0xFFFF#16 1#16).WellFormed = true ∧
    (Instr.frameReadRequest 0xFF#8 0x0000#16 125#16).WellFormed = true ∧
    (Instr.frameReadResponse 0x01#8 [0xFFFF#16] 0#16).WellFormed = true ∧
    (Instr.frameReadResponse 0x01#8 (List.replicate 125 0xFFFF#16) 0#16).WellFormed = true := by decide +kernel
theorem witness_DecodeThenEncode :
    decode 0xFFFF#16 (.command 0xFFFF#16) = .ok (.illegal 0xFFFF#16) ∧
    decode 0xFFFF#16 (.request [0xFF#8, 0x03#8, 0xFF#8, 0xFF#8, 0x00#8, 0x7D#8, 0x90#8, 0x11#8]) =
      .ok (.frameReadRequest 0xFF#8 0xFFFF#16 125#16) ∧
    decode 0xFFFF#16 (.response [0x01#8, 0x83#8, 0xFF#8, 0x01#8, 0x70#8]) =
      .ok (.frameExceptionResponse 0x01#8 .readHolding 0xFF#8 0x7001#16) := by decide +kernel
theorem witness_PresentedWordRunsNext : 0xFFFF < 2 ^ 16 := by decide
theorem witness_PresentedFrameRunsNext :
    16 < 56 ∧ (receiving 0x03#8 []).cfg = Config.default ∧
    decodeTableWord 56 0x0378F500020301 = some (.frameReadResponse 0x01#8 [0x00F5#16] 0x0378#16) ∧
    decodeTableWord 64 0x36D4010001010301 = some (.frameReadRequest 0x01#8 0x0101#16 0x0001#16) := by decide +kernel
theorem witness_CrcByteFoldsItsByte : crcStep 0xFFFF#16 0x01#8 = crcStep 0xFFFF#16 0x01#8 := rfl
theorem witness_ResidueIsZeroExactlyForGoodFrames : 2 ≤ [0xFF#8, 0xFF#8].length := by decide
theorem witness_SingleByteChangeChangesCrc : (0x00#8 : Byte) ≠ 0x80#8 := by decide
theorem witness_EncReadBuildsTheRequest :
    (requesting 0x01#8 0#16 0#16).opnd.toNat < 1 ∧ 125 < (requesting 0x01#8 0#16 126#16).opnd.toNat ∧
    (1 ≤ (requesting 0x01#8 0#16 1#16).opnd.toNat ∧ (requesting 0x01#8 0#16 1#16).opnd.toNat ≤ 125) ∧
    (1 ≤ (requesting 0x01#8 0#16 125#16).opnd.toNat ∧ (requesting 0x01#8 0#16 125#16).opnd.toNat ≤ 125) := by decide
theorem witness_RequestFramesAreBuilt :
    (1 ≤ (1#16).toNat ∧ (1#16).toNat ≤ 125) ∧ (1 ≤ (125#16).toNat ∧ (125#16).toNat ≤ 125) ∧ (0#16).toNat < 1 ∧
    125 < (126#16).toNat := by decide
theorem witness_EncodersArePureAndIdempotent :
    (requesting 0x01#8 0x0101#16 1#16).opnd = { requesting 0x01#8 0x0101#16 1#16 with crc := 0#16 }.opnd ∧
    ends (exec .encRead (requesting 0x01#8 0x0101#16 1#16)) (fun t => t.status == 0x01#8) = true ∧
    runs .encRead { requesting 0x01#8 0x0101#16 1#16 with crc := 0#16 } ∧
    Memory.wf (requesting 0x01#8 0x0101#16 1#16).txbuf = true := ⟨rfl, by decide +kernel, ⟨_, rfl⟩, rfl⟩
theorem witness_CrcStageHasThreeEnds :
    2 ≤ 2 ∧ (receiving 0x03#8 [0xFF#8]).rxlen.toNat < 2 ∧
    256 < { State.reset with rxlen := 257#9 }.rxlen.toNat ∧
    crc16 0xFFFF#16 [] = be16 0xFF#8 0xFF#8 ∧ (receiving 0x03#8 [0xFF#8, 0xFF#8]).rxlen.toNat = 2 ∧
    crc16 0xFFFF#16 [] ≠ be16 0xFF#8 0xFE#8 ∧ (receiving 0x03#8 (List.replicate 256 0#8)).rxlen.toNat = 256 := by
  decide +kernel
theorem witness_DecRespFollowsItsChecks :
    ¬FuncValid State.reset ∧ FuncValid (good 0x03#8 [0x01#8, 0x03#8, 0x02#8, 0x00#8, 0xF5#8]) ∧
    (crcStage 5 [] (clearResults (receiving 0x03#8 []))).2 = some .errLength ∧
    (crcStage 5 (sealFrame 0xFFFF#16 [0x01#8, 0x03#8, 0x02#8, 0x00#8, 0xF5#8])
      (clearResults (good 0x03#8 [0x01#8, 0x03#8, 0x02#8, 0x00#8, 0xF5#8]))).2 = none ∧
    (0x06#8 : Byte) ||| 0x80#8 = 0x86#8 ∧ (0x04#8 : Byte) ≠ 0x03#8 ||| 0x80#8 := by unfold FuncValid; decide +kernel
theorem witness_ExceptionPathReportsTheCode :
    [0x01#8, 0x86#8, 0x02#8, 0xC3#8, 0xA1#8].length = 5 ∧
    [0x01#8, 0x86#8, 0x02#8, 0x00#8, 0xC3#8, 0xA1#8].length ≠ 5 := by decide
theorem witness_ReadPathExtractsTheValues :
    (0#8 : Byte) = 0#8 ∧ (3#8 : Byte).getLsbD 0 = true ∧ 250 < (252#8 : Byte).toNat ∧
    ((2#8 : Byte) ≠ 0#8 ∧ (2#8 : Byte).getLsbD 0 = false ∧
      [0x01#8, 0x03#8, 0x02#8, 0x00#8, 0xF5#8, 0x78#8, 0x03#8].length = 5 + (2#8 : Byte).toNat ∧
      [0x01#8, 0x03#8, 0x02#8, 0x00#8, 0xF5#8].length ≠ 5 + (2#8 : Byte).toNat) ∧
    ((250#8 : Byte) ≠ 0#8 ∧ (250#8 : Byte).getLsbD 0 = false ∧ (250#8 : Byte).toNat ≤ 250 ∧
      (sealFrame 0xFFFF#16 longBody).length = 5 + (250#8 : Byte).toNat) := by decide +kernel
theorem witness_WritePathReportsTheEcho :
    [0x01#8, 0x06#8, 0xDF#8, 0x00#8, 0x00#8, 0x01#8, 0x73#8, 0xDE#8].length = 8 ∧
    [0x01#8, 0x06#8, 0xDF#8, 0x00#8, 0x00#8, 0x01#8, 0x73#8].length ≠ 8 := by decide
theorem witness_DecRespDeliversReadValues :
    let s := good 0x03#8 longBody
    s.func = 0x03#8 ∧ readCell s.rxbuf 0 = s.slave ∧ readCell s.rxbuf 1 = 0x03#8 ∧ readCell s.rxbuf 2 = 250#8 ∧
    s.rxlen.toNat = 5 + 250 ∧ CrcGood s := by
  intro s
  have first (i : Nat) (h : i < 3) : readCell s.rxbuf i = byteAt longBody i := by
    refine (readCell_receiving _ _ i (by simp; omega)).trans ?_
    simp only [sealFrame, byteAt]
    rw [List.getD_append _ _ _ _ (by simp; omega)]
  exact ⟨rfl, first 0 (by omega), first 1 (by omega), first 2 (by omega),
    (rxlen_receiving _ _ (by simp)).trans (by simp), crcGood_good _ _ (by simp)⟩
theorem witness_DecRespReportsEchoAndException :
    let s := good 0x06#8 [0x01#8, 0x06#8, 0xDF#8, 0x00#8, 0x00#8, 0x01#8]
    let u := good 0x06#8 [0x01#8, 0x86#8, 0x02#8]
    (readCell s.rxbuf 0 = s.slave ∧ CrcGood s ∧ readCell s.rxbuf 1 = 0x06#8 ∧ s.rxlen = 8#9) ∧
    (readCell u.rxbuf 0 = u.slave ∧ CrcGood u ∧ FuncValid u ∧ readCell u.rxbuf 1 = u.func ||| 0x80#8 ∧ u.rxlen = 5#9) := by
  unfold CrcGood FuncValid; decide +kernel
/-- The clauses in order: FUNC invalid; lengths 4 and 257; a bad CRC; another slave; another function; byte counts 0, 3, 252;
a length wrong on each of the three paths. -/
theorem witness_DecRespErrorsLeaveTheirRecord :
    ¬FuncValid State.reset ∧ (receiving 0x03#8 [0x01#8, 0x03#8, 0x40#8, 0x21#8]).rxlen.toNat < 5 ∧
    256 < { receiving 0x03#8 [] with rxlen := 257#9 }.rxlen.toNat ∧
    ¬CrcGood (receiving 0x03#8 [0x01#8, 0x03#8, 0x02#8, 0x00#8, 0xF5#8, 0x79#8, 0x03#8]) ∧
    (CrcGood (good 0x03#8 [0x02#8, 0x03#8, 0x00#8]) ∧ byteAt (received (good 0x03#8 [0x02#8, 0x03#8, 0x00#8])) 0 = 0x02#8) ∧
    (CrcGood (good 0x03#8 [0x01#8, 0x04#8, 0x00#8]) ∧ byteAt (received (good 0x03#8 [0x01#8, 0x04#8, 0x00#8])) 1 = 0x04#8) ∧
    (CrcGood (good 0x03#8 [0x01#8, 0x03#8, 0x00#8]) ∧ byteAt (received (good 0x03#8 [0x01#8, 0x03#8, 0x00#8])) 2 = 0#8) ∧
    (CrcGood (good 0x03#8 [0x01#8, 0x03#8, 0xFC#8]) ∧ 250 < (0xFC#8).toNat ∧ (0x03#8 : Byte).getLsbD 0 = true) ∧
    (CrcGood (good 0x03#8 [0x01#8, 0x83#8, 0x02#8, 0x00#8]) ∧
      (good 0x03#8 [0x01#8, 0x83#8, 0x02#8, 0x00#8]).rxlen.toNat ≠ 5) ∧
    (CrcGood (good 0x03#8 [0x01#8, 0x03#8, 0x02#8, 0x00#8]) ∧
      (good 0x03#8 [0x01#8, 0x03#8, 0x02#8, 0x00#8]).rxlen.toNat ≠ 5 + 2) ∧
    (CrcGood (good 0x06#8 [0x01#8, 0x06#8, 0xDF#8, 0x00#8, 0x00#8]) ∧
      (good 0x06#8 [0x01#8, 0x06#8, 0xDF#8, 0x00#8, 0x00#8]).rxlen.toNat ≠ 8) := by
  unfold FuncValid CrcGood; decide +kernel
theorem witness_FirstFailingCheckIsReported :
    8 ≤ (opField 0x0008#16).toNat ∧ runs (decodeCommand 0x0008#16) State.reset ∧ runs .encRead State.reset ∧
    runs .decResp (good 0x03#8 longBody) ∧ runs .decFrame (good 0x00#8 [0x01#8, 0x03#8]) :=
  ⟨by decide, ⟨_, rfl⟩, ⟨_, rfl⟩, ⟨_, rfl⟩, ⟨_, rfl⟩⟩
theorem witness_DecFrameSplitsAnyFrame :
    (receiving 0x00#8 [0x01#8, 0x03#8, 0x40#8]).rxlen.toNat < 4 ∧
    256 < { State.reset with rxlen := 257#9 }.rxlen.toNat ∧
    ((good 0x00#8 [0x01#8, 0x03#8]).rxlen.toNat = 4 ∧ CrcGood (good 0x00#8 [0x01#8, 0x03#8])) ∧
    ((receiving 0x00#8 [0x01#8, 0x03#8, 0x40#8, 0x22#8]).rxlen.toNat = 4 ∧
      ¬CrcGood (receiving 0x00#8 [0x01#8, 0x03#8, 0x40#8, 0x22#8])) ∧
    ((good 0x00#8 (List.replicate 254 0#8)).rxlen.toNat = 256 ∧ CrcGood (good 0x00#8 (List.replicate 254 0#8))) :=
  ⟨by decide, by decide, ⟨by decide +kernel, crcGood_good _ _ (by decide)⟩,
    ⟨by decide +kernel, by unfold CrcGood; decide +kernel⟩,
    (rxlen_receiving _ _ (by decide +kernel)).trans (by decide +kernel), crcGood_good _ _ (by decide +kernel)⟩
theorem witness_DecFrameIgnoresSlaveAndFunc : runs .decFrame (good 0x00#8 [0x01#8, 0x83#8, 0x02#8]) := ⟨_, rfl⟩
theorem witness_DecodersKeepOperandsAndBuffers :
    runs .decResp (good 0x03#8 [0x01#8, 0x03#8, 0x00#8]) ∧ runs .decFrame (good 0x03#8 [0x01#8, 0x03#8, 0x00#8]) :=
  ⟨⟨_, rfl⟩, ⟨_, rfl⟩⟩
theorem witness_ResultsReflectOnlyTheLatestDecode :
    ¬FuncValid State.reset ∧ (receiving 0x00#8 [0x01#8, 0x03#8, 0x40#8]).rxlen.toNat < 4 ∧
    decodeCommand 0x0007#16 ≠ .decResp ∧ decodeCommand 0x0007#16 ≠ .decFrame ∧
    runs (decodeCommand 0x0007#16) { State.reset with nvalues := 1#8 } :=
  ⟨by unfold FuncValid; decide, by decide, by decide, by decide, _, rfl⟩
/-- A failed decode; then a value delivered. -/
theorem witness_FailedDecodeShowsNoValue :
    ends (exec .decResp State.reset) (fun t => t.status != 0x02#8) = true ∧
    ends (exec .decResp (good 0x03#8 [0x01#8, 0x03#8, 0x02#8, 0x00#8, 0xF5#8]))
      (fun t => t.nvalues == 1#8 && t.status != 0x03#8) = true := by
  decide +kernel
theorem witness_DecRespHasAResultType : runs .decResp State.reset := ⟨_, rfl⟩
theorem witness_ReadResponseFrameGivesItsValues :
    (1 ≤ [0x00F5#16].length ∧ (List.replicate 125 0x00F5#16).length ≤ 125) ∧
    { State.reset with func := 0x03#8 }.func = 0x03#8 ∧ { State.reset with func := 0x03#8 }.slave = 0x01#8 := by decide +kernel
theorem witness_EchoAndExceptionFramesAreReported :
    { State.reset with func := 0x06#8 }.func = 0x06#8 ∧ { State.reset with func := 0x06#8 }.slave = 0x01#8 ∧
    { State.reset with func := 0x03#8 }.func = FuncCode.readHolding.byte := by decide
theorem witness_BadCrcResponseFrameIsReported :
    let F := readResponseBytes 0x01#8 [0x00F5#16] 0x0379#16
    encode 0xFFFF#16 (.frameReadResponse 0x01#8 [0x00F5#16] 0x0379#16) = .response F ∧
    (Instr.frameReadResponse 0x01#8 [0x00F5#16] 0x0379#16).WellFormed = true ∧
    FuncValid { State.reset with func := 0x03#8 } ∧ crc16 0xFFFF#16 (frameBody F) ≠ crcField F ∧
    runs (.frameReadResponse 0x01#8 [0x00F5#16] 0x0379#16) { State.reset with func := 0x03#8 } :=
  ⟨rfl, by decide, by unfold FuncValid; decide, by decide +kernel, _, rfl⟩
theorem witness_DecRespRunsTheReceivedFrame :
    let s := { receiving 0x00#8 [0x01#8, 0x03#8, 0x02#8, 0x00#8, 0xF5#8, 0x78#8, 0x03#8] with
      pending := [.write 0x000#12 0x0005#16] }
    s.pending = .write 0x000#12 0x0005#16 :: [] ∧
    decodeResponse (received s) = .ok (.frameReadResponse 0x01#8 [0x00F5#16] 0x0378#16) := by decide +kernel
theorem witness_LoopCopiesTheTransmitFrame :
    State.reset.txlen.toNat ≤ 256 ∧ { State.reset with txlen := 8#9 }.txlen.toNat ≤ 256 ∧
    { State.reset with txlen := 256#9 }.txlen.toNat ≤ 256 := by decide
theorem witness_IllegalWordRecordsOnlyItsCode :
    8 ≤ (opField 0x0008#16).toNat ∧ (opField 0x0107#16 ≠ 0x02#8 ∧ imm8Field 0x0107#16 ≠ 0x00#8) := by decide
theorem witness_LoopbackRoundTrips :
    (1 ≤ (requesting 0xFF#8 0xFFFF#16 125#16).opnd.toNat ∧ (requesting 0xFF#8 0xFFFF#16 125#16).opnd.toNat ≤ 125) ∧
    (1 ≤ (requesting 0x00#8 0x0000#16 1#16).opnd.toNat ∧ (requesting 0x00#8 0x0000#16 1#16).opnd.toNat ≤ 125) := by decide
theorem witness_LoopedReadRequestIsNoResponse :
    (1 ≤ (requesting 0x01#8 0x0101#16 1#16).opnd.toNat ∧ (requesting 0x01#8 0x0101#16 1#16).opnd.toNat ≤ 125) ∧
    (hiByte 0x0101#16).getLsbD 0 = true ∧ hiByte 0x0001#16 = 0#8 ∧ 250 < (hiByte 0xFC00#16).toNat ∧
    ¬(hiByte 0xFA00#16 = 0#8 ∨ (hiByte 0xFA00#16).getLsbD 0 = true ∨ 250 < (hiByte 0xFA00#16).toNat) := by decide
/-- A five-byte frame, each of its CRC bytes. -/
theorem witness_CorruptedCrcByteIsReported :
    let s := good 0x03#8 [0x01#8, 0x83#8, 0x02#8]
    FuncValid s ∧ s.rxlen.toNat = 5 ∧ CrcGood s ∧ (0x00#8 : Byte) ≠ readCell s.rxbuf (5 - 2) ∧
    (0x00#8 : Byte) ≠ readCell s.rxbuf (5 - 1) := by unfold FuncValid CrcGood; decide +kernel
/-- The first and the last body byte. -/
theorem witness_CorruptedBodyByteIsReported :
    let s := good 0x03#8 [0x01#8, 0x83#8, 0x02#8]
    FuncValid s ∧ s.rxlen.toNat = 5 ∧ CrcGood s ∧ 2 < s.rxlen.toNat - 2 ∧ (0x81#8 : Byte) ≠ readCell s.rxbuf 0 ∧
    (0x03#8 : Byte) ≠ readCell s.rxbuf 2 := by unfold FuncValid CrcGood; decide +kernel
theorem witness_RecvPresentsTheFrame :
    let F : List Byte := List.replicate 256 0x5A#8
    let s : State := { State.reset with pending := (Pseudo.recv F).expand ++ [Input.reset] }
    F.length ≤ 256 ∧ s.pending = (Pseudo.recv F).expand ++ [Input.reset] := ⟨by decide +kernel, rfl⟩
theorem witness_RequestPseudosRunTheirFrame :
    { State.reset with pending := (Pseudo.readReq 1#16 0x0101#16 1#16).expand }.pending =
      (Pseudo.readReq 1#16 0x0101#16 1#16).expand ++ [] ∧
    { State.reset with pending := (Pseudo.writeReq 1#16 0xDF00#16 1#16).expand }.pending =
      (Pseudo.writeReq 1#16 0xDF00#16 1#16).expand ++ [] := by decide

/-- A state after ENC_WRITE (vector V1), with LOOP to come. -/
def encoded : State :=
  { facing (.write 0x000#12 0x0007#16) with
    status := 0x01#8, crc := 0xDE73#16, func := 0x06#8, txlen := 8#9,
    txbuf := [(0, 0x01#8), (1, 0x06#8), (2, 0xDF#8), (5, 0x01#8), (6, 0x73#8), (7, 0xDE#8)] }

theorem witness_StepKeepsTheInvariant : encoded.Inv ∧ ∃ t, step encoded = .next t := by
  refine ⟨⟨by decide, rfl, rfl, rfl, .inr rfl, by decide, by decide, fun _ _ => rfl, fun i hi => ?_, fun _ => ?_, .inl rfl⟩,
    _, rfl⟩
  · simp [encoded, facing, readCell, show i ≠ 0 by omega, show i ≠ 1 by omega, show i ≠ 2 by omega, show i ≠ 5 by omega,
      show i ≠ 6 by omega, show i ≠ 7 by omega, eq_comm]
  · exact ⟨.frameWriteRequest 0x01#8 0xDF00#16 0x0001#16, by decide +kernel⟩

end Sys2Proof.Tests
end

/-! PROOF. The family of 10_state.md: the result registers (R42) and the command register (R21). -/

namespace Sys2Proof.Machine

/-! ### Command words (30_encoding.md R72) -/

/-- A command word selects one of the nine command rows of the opcode table, never a frame (R72, R73). -/
theorem decodeCommand_cases (w : Word) :
    decodeCommand w = .nop ∨ decodeCommand w = .crcInit ∨ decodeCommand w = .crcByte (imm8Field w) ∨
    decodeCommand w = .encRead ∨ decodeCommand w = .encWrite ∨ decodeCommand w = .decResp ∨
    decodeCommand w = .decFrame ∨ decodeCommand w = .loop ∨ decodeCommand w = .illegal w := by
  unfold decodeCommand
  split
  · next r hr =>
    have hmem : r ∈ opcodeMap := List.mem_of_find?_eq_some hr
    simp only [opcodeMap, List.mem_cons, List.not_mem_nil, or_false] at hmem
    rcases hmem with rfl | rfl | rfl | rfl | rfl | rfl | rfl | rfl <;> simp
  · simp

/-! ### The CMD register (R21) -/

/-- CMD is write-only: a host write performs the word (R21, R53). -/
theorem hostWrite_cmd (w : Word) (s : State) : hostWrite 0x000#12 w s = exec (decodeCommand w) s := rfl

/-- CMD has no storage: a host read returns 0 (R21, R52). -/
theorem hostRead_cmd (s : State) :
    hostRead 0x000#12 s = .next { s with returned := s.returned ++ [0x0000#16] } := rfl

/-- Settles O2: the step serves the access, and the port's map sends it to CMD. -/
theorem commandRegisterPerformsTheWord : Obligations.CommandRegisterPerformsTheWord := by
  intro s rest
  refine ⟨fun w hp => ⟨?_, rfl, rfl⟩, fun hp => ?_⟩
  · rw [step_write hp, hostWrite_cmd]
  · rw [step_read hp, hostRead_cmd]

/-! ### The decoders start from cleared results (R42) -/

/-- DEC_RESP with a FUNC it does not accept ends at its first check (R141). -/
theorem decodeResp_of_not_funcValid {F : List Byte} {s : State} (h : ¬FuncValid s) :
    decodeResp F s = finish .errOperand (clearResults s) := by
  have hf : (clearResults s).func ≠ 0x03#8 ∧ (clearResults s).func ≠ 0x06#8 := not_or.mp h
  simp only [decodeResp, if_pos hf]

/-- DEC_FRAME on a frame below its minimum length ends at the length check (R140, R150). -/
theorem decodeAnyFrame_of_short {F : List Byte} {s : State} (h : F.length < 4) :
    decodeAnyFrame F s = finish .errLength (clearResults s) := by
  unfold decodeAnyFrame
  rw [crcStage_length (.inl h)]

@[simp] theorem received_clearResults (s : State) : received (clearResults s) = received s := rfl

/-- Clearing the results is the first action of both decoders, so clearing them before changes nothing (R42). -/
theorem exec_decoder_clearResults {i : Instr} (hi : i = .decResp ∨ i = .decFrame) (s : State) :
    exec i (clearResults s) = exec i s := by
  rcases hi with rfl | rfl <;> rfl

/-- A decoder does not read the results: states that differ in them only decode alike (R42). -/
theorem exec_decoder_congr {i : Instr} (hi : i = .decResp ∨ i = .decFrame) {s t : State}
    (h : clearResults s = clearResults t) : exec i s = exec i t := by
  rw [← exec_decoder_clearResults hi s, h, exec_decoder_clearResults hi t]

/-! ### No other command writes a result register (R42) -/

/-- The result registers, RX_SLAVE to PLEN and VALUES (10_state.md R31 to R38, R41). -/
def State.results (s : State) : Byte × Byte × Byte × Byte × Byte × Word × Word × Word × Cells 16 :=
  (s.rxSlave, s.rxFunc, s.excCode, s.nvalues, s.plen, s.rxAddr, s.rxOpnd, s.rxCrc, s.values)

theorem results_eq_iff (s t : State) :
    t.results = s.results ↔
      t.rxSlave = s.rxSlave ∧ t.rxFunc = s.rxFunc ∧ t.excCode = s.excCode ∧ t.nvalues = s.nvalues ∧ t.plen = s.plen ∧
      t.rxAddr = s.rxAddr ∧ t.rxOpnd = s.rxOpnd ∧ t.rxCrc = s.rxCrc ∧ t.values = s.values := by
  simp only [State.results, Prod.mk.injEq]

theorem buildReadRequest_results (slave : Byte) (addr count : Word) (s : State) :
    (buildReadRequest slave addr count s).results = s.results := by
  rcases buildReadRequest_cases slave addr count s with ⟨_, h⟩ | ⟨_, _, h⟩
  · rw [h]; rfl
  · rw [h, buildRequest_eq]; rfl

/-- A command word that selects no decoder leaves every result register (R42). -/
theorem exec_command_results {w : Word} {s t : State} (hr : decodeCommand w ≠ .decResp) (hf : decodeCommand w ≠ .decFrame)
    (h : exec (decodeCommand w) s = .next t) : t.results = s.results := by
  rcases decodeCommand_cases w with e | e | e | e | e | e | e | e | e <;> rw [e] at h hr hf
  · cases h; rfl
  · cases h; rfl
  · cases h; rfl
  · cases h; exact buildReadRequest_results s.slave s.addr s.opnd s
  · cases h; rfl
  · exact absurd rfl hr
  · exact absurd rfl hf
  · cases h; rfl
  · cases h; rfl

/-- Settles O42, from where the decoders start and from what the other commands write. -/
theorem resultsReflectOnlyTheLatestDecode : Obligations.ResultsReflectOnlyTheLatestDecode := by
  refine ⟨fun _ => rfl, fun s => ⟨fun hf => ?_, fun hl => ?_⟩, fun i s a b c d e x y z v hi => ?_,
    fun w s t hr hf h => ?_⟩
  · exact congrArg Host.Outcome.next (decodeResp_of_not_funcValid hf)
  · exact congrArg Host.Outcome.next (decodeAnyFrame_of_short (by rwa [received_length]))
  · exact exec_decoder_congr hi rfl
  · exact (results_eq_iff s t).mp (exec_command_results hr hf h)

end Sys2Proof.Machine

/-! PROOF. The family of 20_memory.md: the address map (R51), host reads and writes (R52, R53), the one fault (R58). -/

namespace Sys2Proof.Machine

/-! ### The address map (R51) -/

/-- From 0x012 on the map holds the three register files only. -/
theorem portReg_above {a : PortAddr} (h : 0x012 ≤ a.toNat) :
    portReg a =
      if 0x100 ≤ a.toNat ∧ a.toNat ≤ 0x1FF then some (.txbuf (a.toNat - 0x100))
      else if 0x200 ≤ a.toNat ∧ a.toNat ≤ 0x2FF then some (.rxbuf (a.toNat - 0x200))
      else if 0x300 ≤ a.toNat ∧ a.toNat ≤ 0x37C then some (.values (a.toNat - 0x300))
      else none := by
  unfold portReg
  split
  case h_19 => rfl
  all_goals omega

theorem portReg_txbuf {a : PortAddr} (h₁ : 0x100 ≤ a.toNat) (h₂ : a.toNat ≤ 0x1FF) :
    portReg a = some (.txbuf (a.toNat - 0x100)) := by
  rw [portReg_above (by omega), if_pos ⟨h₁, h₂⟩]

theorem portReg_rxbuf {a : PortAddr} (h₁ : 0x200 ≤ a.toNat) (h₂ : a.toNat ≤ 0x2FF) :
    portReg a = some (.rxbuf (a.toNat - 0x200)) := by
  rw [portReg_above (by omega), if_neg (by omega), if_pos ⟨h₁, h₂⟩]

theorem portReg_values {a : PortAddr} (h₁ : 0x300 ≤ a.toNat) (h₂ : a.toNat ≤ 0x37C) :
    portReg a = some (.values (a.toNat - 0x300)) := by
  rw [portReg_above (by omega), if_neg (by omega), if_neg (by omega), if_pos ⟨h₁, h₂⟩]

/-- Below 0x012 every address is mapped. -/
theorem portReg_below {a : PortAddr} (h : a.toNat < 0x012) : portReg a ≠ none := by
  interval_cases ha : a.toNat
  all_goals
    rw [portReg, ha]
    exact Option.some_ne_none _

/-- The map is empty exactly on the unmapped ranges of R51. -/
theorem portReg_eq_none_iff (a : PortAddr) : portReg a = none ↔ Unmapped a := by
  unfold Unmapped
  rcases Nat.lt_or_ge a.toNat 0x012 with hlo | hhi
  · exact iff_of_false (portReg_below hlo) (by omega)
  · rw [portReg_above hhi]
    split_ifs
    case neg => exact iff_of_true rfl (by omega)
    all_goals exact iff_of_false not_false (by omega)

/-- An address outside the unmapped ranges has a register. -/
theorem portReg_of_mapped {a : PortAddr} (h : ¬Unmapped a) : ∃ r, portReg a = some r :=
  Option.ne_none_iff_exists'.mp (mt (portReg_eq_none_iff a).mp h)

/-- The read-only addresses of R51: STATUS, TXLEN, the result registers, TXBUF and VALUES. -/
theorem portReg_readOnly {a : PortAddr}
    (h : a = 0x001#12 ∨ a = 0x008#12 ∨ (0x00A ≤ a.toNat ∧ a.toNat ≤ 0x011) ∨ (0x100 ≤ a.toNat ∧ a.toNat ≤ 0x1FF) ∨
      (0x300 ≤ a.toNat ∧ a.toNat ≤ 0x37C)) :
    ∃ r, portReg a = some r ∧ access r = .ro := by
  rcases h with rfl | rfl | ⟨h₁, h₂⟩ | ⟨h₁, h₂⟩ | ⟨h₁, h₂⟩
  · exact ⟨.status, rfl, rfl⟩
  · exact ⟨.txlen, rfl, rfl⟩
  · interval_cases ha : a.toNat <;> exact ⟨_, by rw [portReg, ha]; rfl, rfl⟩
  · exact ⟨_, portReg_txbuf h₁ h₂, rfl⟩
  · exact ⟨_, portReg_values h₁ h₂, rfl⟩

/-- Zero-extension to the port's word keeps a register within its own width (R52). -/
theorem toNat_zeroExtend_lt {w : Nat} (x : BitVec w) (h : w ≤ 16) : (x.setWidth 16).toNat < 2 ^ w := by
  rw [BitVec.toNat_setWidth_of_le h]
  exact x.isLt

/-- No register reads beyond its width: the 16-bit ones are a word, the others are zero-extended. -/
theorem readReg_toNat_lt (r : PortReg) (s : State) : (readReg r s).toNat < 2 ^ regWidth r := by
  cases r
  case cmd | crc | addr | opnd | rxAddr | rxOpnd | rxCrc | values => exact BitVec.isLt _
  case txlen | rxlen => exact toNat_zeroExtend_lt (w := 9) _ (by omega)
  all_goals exact toNat_zeroExtend_lt (w := 8) _ (by omega)

/-- Settles O3: the fixed addresses by the map's own rows, the register files and the unmapped ranges by their bounds. -/
theorem addressMapIsTheTable : Obligations.AddressMapIsTheTable :=
  ⟨by decide, fun _ => portReg_txbuf, fun _ => portReg_rxbuf, fun _ => portReg_values,
    fun _ => ⟨rfl, rfl, rfl, rfl, rfl, rfl⟩, portReg_eq_none_iff, readReg_toNat_lt⟩

/-! ### Host reads (R52) -/

theorem hostRead_unmapped {a : PortAddr} (h : Unmapped a) (s : State) : hostRead a s = .fault (.busError a) := by
  simp [hostRead, (portReg_eq_none_iff a).mpr h]

theorem hostRead_mapped {a : PortAddr} {r : PortReg} (h : portReg a = some r) (s : State) :
    hostRead a s = .next { s with returned := s.returned ++ [readReg r s] } := by
  simp [hostRead, h]

/-- No register shows the host's pending inputs. -/
theorem readReg_pending (r : PortReg) (s : State) (rest : List Input) :
    readReg r { s with pending := rest } = readReg r s := by
  cases r <;> rfl

/-- The step that reads a mapped register takes its input and returns the register's word; the block stays as it is. -/
theorem step_read_mapped {s : State} {a : PortAddr} {rest : List Input} {r : PortReg}
    (hp : s.pending = .read a :: rest) (h : portReg a = some r) :
    step s = .next { s with pending := rest, returned := s.returned ++ [readReg r s] } := by
  rw [step_read hp, hostRead_mapped h, readReg_pending]

/-- Settles O4: each address by the register the map gives it. -/
theorem hostReadReturnsTheRegister : Obligations.HostReadReturnsTheRegister := by
  intro s a rest hp back
  refine ⟨?_, ?_, ?_, ?_, ?_, ?_, ?_, ?_, ?_, ?_, ?_, ?_, ?_, ?_, ?_, ?_, ?_, ?_, ?tx, ?rx, ?values, ?unmapped⟩
  case tx => exact fun h₁ h₂ => step_read_mapped hp (portReg_txbuf h₁ h₂)
  case rx => exact fun h₁ h₂ => step_read_mapped hp (portReg_rxbuf h₁ h₂)
  case values => exact fun h₁ h₂ => step_read_mapped hp (portReg_values h₁ h₂)
  case unmapped => exact fun h => (step_read hp).trans (hostRead_unmapped h _)
  all_goals
    rintro rfl
    exact (step_read_mapped hp rfl).trans rfl

/-! ### Host writes (R53) -/

theorem hostWrite_unmapped {a : PortAddr} (h : Unmapped a) (d : Word) (s : State) :
    hostWrite a d s = .fault (.busError a) := by
  simp [hostWrite, (portReg_eq_none_iff a).mpr h]

theorem hostWrite_w1c {a : PortAddr} {r : PortReg} (h : portReg a = some r) (ha : access r = .w1c) (d : Word)
    (s : State) : hostWrite a d s = .next (clearErrFlags d s) := by
  simp [hostWrite, h, ha]

theorem hostWrite_rw {a : PortAddr} {r : PortReg} (h : portReg a = some r) (ha : access r = .rw) (d : Word)
    (s : State) : hostWrite a d s = .next (writeReg r d s) := by
  simp [hostWrite, h, ha]

theorem hostWrite_ro {a : PortAddr} {r : PortReg} (h : portReg a = some r) (ha : access r = .ro) (d : Word)
    (s : State) : hostWrite a d s = .next s := by
  simp [hostWrite, h, ha]

theorem hostWrite_wo {a : PortAddr} {r : PortReg} (h : portReg a = some r) (ha : access r = .wo) (d : Word)
    (s : State) : hostWrite a d s = exec (decodeCommand d) s := by
  simp [hostWrite, h, ha]

/-- A host write to RXBUF[i] stores the low byte in entry i and touches nothing else. -/
theorem writeReg_rxbuf (i : Nat) (d : Word) (s : State) :
    writeReg (.rxbuf i) d s = { s with rxbuf := writeCell s.rxbuf i (d.setWidth 8) } := rfl

/-- Settles O5: each address by its register's access type. -/
theorem hostWriteActsByAccessType : Obligations.HostWriteActsByAccessType := by
  intro s a d rest hp u
  have low8 : d.extractLsb' 0 8 = d.setWidth 8 := (BitVec.setWidth_eq_extractLsb' (by omega)).symm
  have low9 : d.extractLsb' 0 9 = d.setWidth 9 := (BitVec.setWidth_eq_extractLsb' (by omega)).symm
  rw [low8, low9]
  refine ⟨?cmd, ?errflags, ?_, ?_, ?_, ?_, ?_, ?_, ?rxbuf, ?readOnly, ?unmapped⟩
  case cmd =>
    rintro rfl
    exact (step_write hp).trans (hostWrite_cmd d u)
  case errflags =>
    rintro rfl
    exact (step_write hp).trans (hostWrite_w1c rfl rfl d u)
  case rxbuf =>
    intro h₁ h₂
    refine ⟨_, (step_write hp).trans (hostWrite_rw (portReg_rxbuf h₁ h₂) rfl d u), rfl, ?_, fun j hj => ?_⟩
    · rw [writeReg_rxbuf]
      exact readCell_writeCell_same _ _ _
    · rw [writeReg_rxbuf]
      exact (readCell_writeCell _ _ _ _).trans (if_neg hj)
  case readOnly =>
    intro h
    obtain ⟨r, hr, hro⟩ := portReg_readOnly h
    exact (step_write hp).trans (hostWrite_ro hr hro d u)
  case unmapped => exact fun h => (step_write hp).trans (hostWrite_unmapped h d u)
  all_goals
    rintro rfl
    exact ((step_write hp).trans (hostWrite_rw rfl rfl d u) :)

/-! ### The only fault of a step (R58, R202) -/

/-- Every instruction ends in a next state: no arm of the dispatch faults or is refused. -/
theorem exec_completes (i : Instr) (s : State) : ∃ t, exec i s = .next t := by
  cases i <;> exact ⟨_, rfl⟩

/-- A host write to a mapped address ends in a next state, whatever the register's access type. -/
theorem hostWrite_mapped {a : PortAddr} {r : PortReg} (h : portReg a = some r) (d : Word) (s : State) :
    ∃ t, hostWrite a d s = .next t := by
  cases ha : access r
  case rw => exact ⟨_, hostWrite_rw h ha d s⟩
  case ro => exact ⟨_, hostWrite_ro h ha d s⟩
  case wo => rw [hostWrite_wo h ha]; exact exec_completes _ s
  case w1c => exact ⟨_, hostWrite_w1c h ha d s⟩

/-- The next step serves a host access to the address `a`. -/
def State.ServesAccess (s : State) (a : PortAddr) : Prop :=
  ∃ rest, s.pending = .read a :: rest ∨ ∃ d, s.pending = .write a d :: rest

theorem step_unmapped {s : State} {a : PortAddr} (hs : s.ServesAccess a) (hu : Unmapped a) :
    step s = .fault (.busError a) := by
  obtain ⟨rest, hp | ⟨d, hp⟩⟩ := hs
  · rw [step_read hp, hostRead_unmapped hu]
  · rw [step_write hp, hostWrite_unmapped hu]

/-- A step that serves no access to an unmapped address has a next state. -/
theorem step_completes {s : State} (h : ∀ a, s.ServesAccess a → ¬Unmapped a) : ∃ t, step s = .next t := by
  rcases step_cases s with ⟨_, e⟩ | ⟨a, rest, hp, e⟩ | ⟨a, d, rest, hp, e⟩ | ⟨_, _, e⟩
  · exact ⟨_, e⟩
  · obtain ⟨r, hr⟩ := portReg_of_mapped (h a ⟨rest, .inl hp⟩)
    exact ⟨_, e.trans (hostRead_mapped hr _)⟩
  · obtain ⟨r, hr⟩ := portReg_of_mapped (h a ⟨rest, .inr ⟨d, hp⟩⟩)
    rw [e]
    exact hostWrite_mapped hr d _
  · exact ⟨_, e⟩

/-- A step has two ends: BusError of the unmapped address it accesses, or a next state (R58). -/
theorem step_faults_or_completes (s : State) :
    (∃ a, s.ServesAccess a ∧ Unmapped a ∧ step s = .fault (.busError a)) ∨ ∃ t, step s = .next t := by
  by_cases h : ∃ a, s.ServesAccess a ∧ Unmapped a
  · obtain ⟨a, hs, hu⟩ := h
    exact .inl ⟨a, hs, hu, step_unmapped hs hu⟩
  · exact .inr (step_completes fun a hs hu => h ⟨a, hs, hu⟩)

/-- Settles O6, from the two ends of a step. -/
theorem onlyUnmappedAccessFaults : Obligations.OnlyUnmappedAccessFaults := by
  intro s
  refine ⟨fun r => ⟨fun h => ?_, ?_⟩, fun r h => ?_⟩
  · obtain ⟨a, ⟨rest, hp⟩, hu, e⟩ | ⟨t, e⟩ := step_faults_or_completes s
    · cases h.symm.trans e
      exact ⟨a, rest, hp, hu, rfl⟩
    · cases h.symm.trans e
  · rintro ⟨a, rest, hp, hu, rfl⟩
    exact step_unmapped ⟨rest, hp⟩ hu
  · obtain ⟨_, _, _, e⟩ | ⟨_, e⟩ := step_faults_or_completes s <;> cases h.symm.trans e

end Sys2Proof.Machine

/-! PROOF. The family of 30_encoding.md: the opcode map decodes every command word (R71 to R73). -/

namespace Sys2Proof.Machine

/-! ### A word and its two fields (R71) -/

/-- OP and IMM8 are the whole word. -/
theorem word_eq_iff_fields (x y : Word) : x = y ↔ opField x = opField y ∧ imm8Field x = imm8Field y := by
  refine ⟨fun h => ⟨congrArg opField h, congrArg imm8Field h⟩, fun ⟨hop, himm⟩ => ?_⟩
  calc x = be16 (imm8Field x) (opField x) := (be16_hi_lo x).symm
    _ = be16 (imm8Field y) (opField y) := by rw [hop, himm]
    _ = y := be16_hi_lo y

@[simp] theorem opField_and (x y : Word) : opField (x &&& y) = opField x &&& opField y :=
  BitVec.extractLsb'_and

@[simp] theorem imm8Field_and (x y : Word) : imm8Field (x &&& y) = imm8Field x &&& imm8Field y :=
  BitVec.extractLsb'_and

/-! ### The rows of the opcode map (R72) -/

/-- Every row fixes the whole of OP, to a code below 8, and asks for IMM8 = 0x00 unless it is CRC_BYTE's. -/
theorem opcodeMap_row_fields :
    ∀ r ∈ opcodeMap, opField r.mask = 0xFF#8 ∧ imm8Field r.pattern = 0x00#8 ∧ (opField r.pattern).toNat < 8 ∧
      (opField r.pattern = 0x02#8 ∨ imm8Field r.mask = 0xFF#8) := by
  decide

/-- A word matches a row when it has the row's OP and no bit of IMM8 under the row's mask. -/
theorem row_matches_iff {r : OpcodeRow} (hr : r ∈ opcodeMap) (w : Word) :
    w &&& r.mask = r.pattern ↔ opField w = opField r.pattern ∧ imm8Field w &&& imm8Field r.mask = 0x00#8 := by
  obtain ⟨hmask, hpattern, -, -⟩ := opcodeMap_row_fields r hr
  have whole : opField w &&& 0xFF#8 = opField w := BitVec.and_allOnes
  rw [word_eq_iff_fields, opField_and, imm8Field_and, hmask, hpattern, whole]

/-- Two rows that match one word agree on the bits both look at. -/
theorem patterns_agree_of_matches {w m p m' p' : Word} (h : w &&& m = p) (h' : w &&& m' = p') :
    p &&& (m &&& m') = p' &&& (m &&& m') := by
  subst h h'
  calc w &&& m &&& (m &&& m') = w &&& (m &&& m &&& m') := by ac_rfl
    _ = w &&& (m &&& (m' &&& m')) := by rw [BitVec.and_self, BitVec.and_self]
    _ = w &&& m' &&& (m &&& m') := by ac_rfl

/-- The row a word matches is the one it decodes by: the rows before it are disjoint from it. -/
theorem decodeCommand_of_row {w : Word} {i : Nat} (hi : i < opcodeMap.length)
    (h : w &&& opcodeMap[i].mask = opcodeMap[i].pattern) : decodeCommand w = opcodeMap[i].build (imm8Field w) := by
  have first : opcodeMap.find? (fun r => w &&& r.mask == r.pattern) = some opcodeMap[i] := by
    refine List.find?_eq_some_iff_getElem.mpr ⟨beq_iff_eq.mpr h, i, hi, rfl, fun j hj => ?_⟩
    have disjoint := List.pairwise_iff_getElem.mp opcodeMap_disjoint j i (hj.trans hi) hi hj
    simpa using fun hw => disjoint (patterns_agree_of_matches hw h)
  rw [decodeCommand, first]

/-! ### Decoding by the fields -/

/-- OP alone selects CRC_BYTE. -/
theorem decodeCommand_crcByte {w : Word} (hop : opField w = 0x02#8) : decodeCommand w = .crcByte (imm8Field w) :=
  decodeCommand_of_row (i := 2) (by decide) ((row_matches_iff (List.getElem_mem _) w).mpr ⟨hop, BitVec.and_zero⟩)

/-- With IMM8 = 0x00, OP below 8 selects its row. -/
theorem decodeCommand_of_imm8_zero {w : Word} {i : Nat} (hi : i < opcodeMap.length)
    (hop : opField w = opField opcodeMap[i].pattern) (himm : imm8Field w = 0x00#8) :
    decodeCommand w = opcodeMap[i].build (imm8Field w) :=
  decodeCommand_of_row hi ((row_matches_iff (List.getElem_mem hi) w).mpr ⟨hop, by rw [himm, BitVec.zero_and]⟩)

/-- A word that matches a row has OP below 8, and IMM8 = 0x00 unless it is a CRC_BYTE. -/
theorem fields_of_row_matches {r : OpcodeRow} (hr : r ∈ opcodeMap) {w : Word} (h : w &&& r.mask = r.pattern) :
    (opField w).toNat < 8 ∧ (opField w = 0x02#8 ∨ imm8Field w = 0x00#8) := by
  obtain ⟨hop, himm⟩ := (row_matches_iff hr w).mp h
  obtain ⟨-, -, hlt, hrow⟩ := opcodeMap_row_fields r hr
  refine ⟨hop ▸ hlt, hrow.imp hop.trans fun hmask => ?_⟩
  rw [hmask] at himm
  exact BitVec.and_allOnes.symm.trans himm

/-- A word of R73 matches no row. -/
theorem decodeCommand_illegal {w : Word} (h : 8 ≤ (opField w).toNat ∨ (opField w ≠ 0x02#8 ∧ imm8Field w ≠ 0x00#8)) :
    decodeCommand w = .illegal w := by
  have noRow : opcodeMap.find? (fun r => w &&& r.mask == r.pattern) = none := by
    refine List.find?_eq_none.mpr fun r hr hw => ?_
    obtain ⟨hlt, hfields⟩ := fields_of_row_matches hr (beq_iff_eq.mp hw)
    rcases h with hge | ⟨hop, himm⟩
    · omega
    · exact hfields.elim hop himm
  rw [decodeCommand, noRow]

/-- Settles O13: each command by its row of the map, the illegal words by having none. -/
theorem commandWordDecodesByTheMap : Obligations.CommandWordDecodesByTheMap := fun _ =>
  ⟨decodeCommand_crcByte,
    decodeCommand_of_imm8_zero (i := 0) (by decide), decodeCommand_of_imm8_zero (i := 1) (by decide),
    decodeCommand_of_imm8_zero (i := 3) (by decide), decodeCommand_of_imm8_zero (i := 4) (by decide),
    decodeCommand_of_imm8_zero (i := 5) (by decide), decodeCommand_of_imm8_zero (i := 6) (by decide),
    decodeCommand_of_imm8_zero (i := 7) (by decide), decodeCommand_illegal⟩

end Sys2Proof.Machine

/-! PROOF. The family of 40_crc.md: the CRC function (R100, R101) and CRC_INIT (R102). -/

namespace Sys2Proof.Machine

/-! ### The CRC function (R100, R101) -/

/-- R100's "repeat n times": the model's recursion is the iterate of one round. -/
theorem crcRounds_eq_iterate (n : Nat) (c : Word) : crcRounds n c = crcRound^[n] c := by
  induction n generalizing c with
  | zero => rfl
  | succ n ih => rw [crcRounds, ih, Function.iterate_succ_apply]

/-- R101's check value, on the ASCII bytes of "123456789" under the default CRC_INIT. -/
theorem crc16_check_value :
    crc16 0xFFFF#16 [0x31#8, 0x32#8, 0x33#8, 0x34#8, 0x35#8, 0x36#8, 0x37#8, 0x38#8, 0x39#8] = 0x4B37#16 := by
  decide +kernel

/-- Settles O18: the rounds are an iterate, the fold grows at its end, and the check value is computed. -/
theorem crcIsEightShiftsPerByte : Obligations.CrcIsEightShiftsPerByte :=
  ⟨fun c b => crcRounds_eq_iterate 8 (c ^^^ b.setWidth 16),
    fun init s b => ⟨crc16_nil init, crc16_concat init s b⟩,
    crc16_check_value⟩

/-! ### CRC_INIT (R102) -/

/-- A code that sets no ERRFLAGS bit changes nothing but STATUS (R23, R200). -/
theorem finish_of_flag_zero {c : Status} (hc : c.flag = 0x00#8) (s : State) : finish c s = { s with status := c.code } := by
  rw [finish, hc, BitVec.or_zero]

/-- CRC_INIT is the load of the parameter, finished with OK (R102). -/
theorem exec_crcInit (s : State) : exec .crcInit s = .next (finish .ok { s with crc := s.cfg.crcInit }) := rfl

/-- Settles O19: the word by its row of the map, the meaning by OK setting no ERRFLAGS bit. -/
theorem crcInitLoadsTheParameter : Obligations.CrcInitLoadsTheParameter := by
  refine ⟨decodeCommand_of_imm8_zero (i := 1) (by decide) (by decide) (by decide), fun s => ?_⟩
  rw [exec_crcInit, finish_of_flag_zero rfl]
  rfl

end Sys2Proof.Machine

/-! PROOF. The family of 41_encode.md: the encoder commands (R120, R121). -/

namespace Sys2Proof.Machine

/-! ### The bytes of a sealed frame (30_encoding.md R74, R75) -/

theorem byteAt_sealFrame_body (init : Word) {B : List Byte} {i : Nat} (h : i < B.length) :
    byteAt (sealFrame init B) i = byteAt B i :=
  List.getD_append _ _ _ _ h

theorem byteAt_sealFrame_crcLow (init : Word) (B : List Byte) :
    byteAt (sealFrame init B) B.length = loByte (crc16 init B) := by
  rw [byteAt, sealFrame, List.getD_append_right _ _ _ _ le_rfl, Nat.sub_self]
  rfl

theorem byteAt_sealFrame_crcHigh (init : Word) (B : List Byte) :
    byteAt (sealFrame init B) (B.length + 1) = hiByte (crc16 init B) := by
  rw [byteAt, sealFrame, List.getD_append_right _ _ _ _ (Nat.le_add_right _ 1), Nat.add_sub_cancel_left]
  rfl

/-! ### Building a request (R120, R121) -/

/-- `t` is `s` with the request of body `B` built: the six bytes and their CRC in TXBUF[0..7], TXBUF[8..255] kept, and TXLEN,
CRC, FUNC and STATUS written. -/
def RequestBuilt (fc : Byte) (B : List Byte) (s t : State) : Prop :=
  (∀ i, i < 6 → readCell t.txbuf i = byteAt B i) ∧
  readCell t.txbuf 6 = loByte (crc16 s.cfg.crcInit B) ∧ readCell t.txbuf 7 = hiByte (crc16 s.cfg.crcInit B) ∧
  (∀ i, 8 ≤ i → readCell t.txbuf i = readCell s.txbuf i) ∧
  t = { s with txbuf := t.txbuf, txlen := 8#9, crc := crc16 s.cfg.crcInit B, func := fc, status := 0x01#8 }

/-- What both encoders share. -/
theorem buildRequest_requestBuilt (fc slave : Byte) (addr operand : Word) (s : State) :
    RequestBuilt fc (requestBody fc slave addr operand) s (buildRequest fc slave addr operand s) := by
  refine ⟨fun i hi => ?body, ?crcLow, ?crcHigh, fun i hi => ?above, ?frame⟩
  case body => rw [buildRequest_txbuf, if_pos (by omega), byteAt_sealFrame_body _ hi]
  case crcLow => exact (buildRequest_txbuf ..).trans (byteAt_sealFrame_crcLow ..)
  case crcHigh => exact (buildRequest_txbuf ..).trans (byteAt_sealFrame_crcHigh ..)
  case above => rw [buildRequest_txbuf, if_neg (by omega)]
  case frame => rw [buildRequest_eq]

/-! ### The encoder commands -/

theorem exec_encRead (s : State) : exec .encRead s = .next (buildReadRequest s.slave s.addr s.opnd s) := rfl

theorem exec_encWrite (s : State) : exec .encWrite s = .next (buildRequest 0x06#8 s.slave s.addr s.opnd s) := rfl

/-- Settles O25: the word by its row of the map, the meaning by the encoder's two ends. -/
theorem encReadBuildsTheRequest : Obligations.EncReadBuildsTheRequest := by
  refine ⟨decodeCommand_of_imm8_zero (i := 3) (by decide) (by decide) (by decide), fun s => ?_⟩
  rw [exec_encRead]
  rcases buildReadRequest_cases s.slave s.addr s.opnd s with ⟨hbad, hend⟩ | ⟨hlow, hhigh, hend⟩ <;> rw [hend]
  · exact ⟨fun _ => rfl, fun hlow hhigh => absurd hbad (by omega)⟩
  · exact ⟨fun hbad => absurd hbad (by omega), fun _ _ => ⟨_, rfl, buildRequest_requestBuilt ..⟩⟩

/-- Settles O26: the word by its row of the map; the encoder has one end. -/
theorem encWriteBuildsTheRequest : Obligations.EncWriteBuildsTheRequest :=
  ⟨decodeCommand_of_imm8_zero (i := 4) (by decide) (by decide) (by decide),
    fun s => ⟨_, exec_encWrite s, buildRequest_requestBuilt ..⟩⟩

end Sys2Proof.Machine

/-! PROOF. The family of 42_decode.md: the CRC stage (R140), DEC_RESP and its paths (R141 to R144), DEC_FRAME (R150). -/

namespace Sys2Proof.Machine

/-! ### The received frame's fields as RXBUF holds them (30_encoding.md R74, R75) -/

theorem frameBody_received (s : State) :
    frameBody (received s) = (List.range (s.rxlen.toNat - 2)).map (readCell s.rxbuf) := by
  rw [frameBody, received_length, received, ← List.map_take, List.take_range, Nat.min_eq_left (Nat.sub_le _ 2)]

theorem crcField_received {s : State} (h : 2 ≤ s.rxlen.toNat) :
    crcField (received s) =
      be16 (readCell s.rxbuf (s.rxlen.toNat - 1)) (readCell s.rxbuf (s.rxlen.toNat - 2)) := by
  rw [crcField, received_length, byteAt_received s _ (by omega), byteAt_received s _ (by omega)]

/-! ### The CRC stage (R140) -/

/-- The stage's end `ok`, from any state. -/
theorem crcStage_passed {m : Nat} {F : List Byte} {s : State} (h₁ : m ≤ F.length) (h₂ : F.length ≤ 256)
    (h : crc16 s.cfg.crcInit (frameBody F) = crcField F) :
    crcStage m F s =
      ({ s with
          crc := crcField F, rxCrc := crcField F, rxSlave := byteAt F 0, rxFunc := byteAt F 1,
          plen := BitVec.ofNat 8 (F.length - 4) }, none) := by
  rcases crcStage_cases m F s with ⟨hlen, _⟩ | ⟨_, _, hne, _⟩ | ⟨_, _, _, e⟩
  · omega
  · exact absurd h hne
  · exact e

/-- No end of the stage writes SLAVE or FUNC. -/
theorem crcStage_keeps_operands (m : Nat) (F : List Byte) (s : State) :
    (crcStage m F s).1.slave = s.slave ∧ (crcStage m F s).1.func = s.func := by
  rcases crcStage_cases m F s with ⟨_, e⟩ | ⟨_, _, _, e⟩ | ⟨_, _, _, e⟩ <;> rw [e] <;> exact ⟨rfl, rfl⟩

/-- Settles O30: the stage's ends, with the received frame's body and CRC field read from RXBUF. -/
theorem crcStageHasThreeEnds : Obligations.CrcStageHasThreeEnds := by
  refine ⟨rfl, rfl, ?_⟩
  intro minLen s n F c f hmin
  have hlen : F.length = n := received_length s
  have hc : crc16 s.cfg.crcInit (frameBody F) = c := congrArg _ (frameBody_received s)
  refine ⟨fun h => crcStage_length (by rwa [hlen]), fun h₁ h₂ hne => ?_, fun h₁ h₂ heq => ?_⟩
  all_goals have hf : crcField F = f := crcField_received (hmin.trans h₁)
  · rw [crcStage_crc (by rwa [hlen]) (by rwa [hlen]) (by rwa [hc, hf]), hc, hf]
  · have h0 : byteAt F 0 = readCell s.rxbuf 0 := byteAt_received s 0 (by omega)
    have h1 : byteAt F 1 = readCell s.rxbuf 1 := byteAt_received s 1 (by omega)
    rw [crcStage_passed (by rwa [hlen]) (by rwa [hlen]) (by rwa [hc, hf]), hf, hlen, h0, h1, heq]

/-! ### The path the function code selects (R141) -/

section SelectPath

variable {F : List Byte} {s : State}

theorem selectPath_slave (h : byteAt F 0 ≠ s.slave) : selectPath F s = finish .errSlave s := if_pos h

theorem selectPath_exception (h₀ : byteAt F 0 = s.slave) (h₁ : byteAt F 1 = s.func ||| 0x80#8) :
    selectPath F s = exceptionPath F s := by
  rw [selectPath, if_neg (not_not_intro h₀), if_pos h₁]

theorem selectPath_function (h₀ : byteAt F 0 = s.slave) (h₁ : byteAt F 1 ≠ s.func ||| 0x80#8)
    (h₂ : byteAt F 1 ≠ s.func) : selectPath F s = finish .errFunction s := by
  rw [selectPath, if_neg (not_not_intro h₀), if_neg h₁, if_pos h₂]

/-- A response with the function code FUNC names takes the path of FUNC. -/
theorem selectPath_data (h₀ : byteAt F 0 = s.slave) (h₁ : byteAt F 1 = s.func) (hf : FuncValid s) :
    selectPath F s = if s.func = 0x03#8 then readPath F s else writePath F s := by
  have notExc : byteAt F 1 ≠ s.func ||| 0x80#8 := h₁ ▸ func_ne_exception (h₁ ▸ hf)
  rw [selectPath, if_neg (not_not_intro h₀), if_neg notExc, if_neg (not_not_intro h₁)]

end SelectPath

/-! ### DEC_RESP (R141) -/

theorem exec_decResp (s : State) : exec .decResp s = .next (decodeResp (received s) s) := rfl

theorem not_rejected_of_funcValid {s : State} (h : FuncValid s) : ¬(s.func ≠ 0x03#8 ∧ s.func ≠ 0x06#8) :=
  fun ⟨h03, h06⟩ => h.elim h03 h06

/-- With a FUNC it accepts, DEC_RESP ends with the code of a CRC stage that fails. -/
theorem decodeResp_of_stage_error {F : List Byte} {s s₁ : State} {r : Status} (hf : FuncValid s)
    (hstage : crcStage minRespLen F (clearResults s) = (s₁, some r)) : decodeResp F s = finish r s₁ := by
  rw [decodeResp, if_neg (not_rejected_of_funcValid (s := clearResults s) hf), hstage]

/-- With a FUNC it accepts, DEC_RESP goes on from a CRC stage that passes to the slave address and the path. -/
theorem decodeResp_of_stage_passed {F : List Byte} {s s₁ : State} (hf : FuncValid s)
    (hstage : crcStage minRespLen F (clearResults s) = (s₁, none)) : decodeResp F s = selectPath F s₁ := by
  rw [decodeResp, if_neg (not_rejected_of_funcValid (s := clearResults s) hf), hstage]

/-- Settles O31: the operand check, then the CRC stage, then the path, which reads SLAVE and FUNC as the stage kept them. -/
theorem decRespFollowsItsChecks : Obligations.DecRespFollowsItsChecks := by
  refine ⟨decodeCommand_of_imm8_zero (i := 5) (by decide) (by decide) (by decide), ?_⟩
  intro s F
  refine ⟨fun hf => ?operand, fun s₁ r hf hstage => ?stage, fun s₁ hf hstage => ?path⟩
  case operand => rw [exec_decResp, decodeResp_of_not_funcValid hf]
  case stage => rw [exec_decResp, decodeResp_of_stage_error hf hstage]
  case path =>
    have hsel : exec .decResp s = .next (selectPath F s₁) := by
      rw [exec_decResp, decodeResp_of_stage_passed hf hstage]
    obtain ⟨hslave, hfunc⟩ := crcStage_keeps_operands 5 F (clearResults s)
    simp only [hstage, clearResults_slave, clearResults_func] at hslave hfunc
    have hf₁ : FuncValid s₁ := by rwa [FuncValid, hfunc]
    rw [hsel, ← hslave, ← hfunc]
    refine ⟨fun h => ?_, fun h₀ h₁ => ?_, fun h₀ h₁ h₂ => ?_, fun h₀ h₁ h₂ => ?_, fun h₀ h₁ h₂ => ?_⟩
    · rw [selectPath_slave h]
    · rw [selectPath_exception h₀ h₁]
    · rw [selectPath_function h₀ h₁ h₂]
    · rw [selectPath_data h₀ h₁ hf₁, if_pos h₂]
    · rw [selectPath_data h₀ h₁ hf₁, if_neg (by rw [h₂]; decide)]

/-! ### The exception path (R142) -/

/-- Settles O32: the path's one check. -/
theorem exceptionPathReportsTheCode : Obligations.ExceptionPathReportsTheCode :=
  fun _ _ => ⟨fun h => if_pos h, fun h => if_neg (not_not_intro h)⟩

/-! ### The read path (R143) -/

@[simp] theorem frameValues_length (F : List Byte) (n : Nat) : (frameValues F n).length = n := by
  simp [frameValues]

theorem frameValues_getD (F : List Byte) {n k : Nat} (h : k < n) :
    (frameValues F n).getD k 0#16 = be16 (byteAt F (3 + 2 * k)) (byteAt F (4 + 2 * k)) := by
  simp [frameValues, h]

/-- The values of a frame in VALUES: the first `n` entries take them, the others stay. -/
theorem readCell_writeCells_frameValues (m : Cells 16) (F : List Byte) (n k : Nat) :
    readCell (writeCells m 0 (frameValues F n)) k =
      if k < n then be16 (byteAt F (3 + 2 * k)) (byteAt F (4 + 2 * k)) else readCell m k := by
  rw [readCell_writeCells, frameValues_length, Nat.zero_add, Nat.sub_zero]
  by_cases h : k < n
  · rw [if_pos ⟨Nat.zero_le k, h⟩, if_pos h, frameValues_getD F h]
  · rw [if_neg (fun hk => h hk.2), if_neg h]

theorem byteCountOk_eq_false_iff (bc : Byte) :
    byteCountOk bc = false ↔ bc = 0#8 ∨ bc.getLsbD 0 = true ∨ 250 < bc.toNat := by
  rw [← Bool.not_eq_true, byteCountOk_iff]
  simp only [ne_eq, not_and_or, not_not, Bool.not_eq_false, Nat.not_le]

section ReadPath

variable {F : List Byte} {s : State}

theorem readPath_byteCount (h : byteCountOk (byteAt F 2) = false) : readPath F s = finish .errByteCount s := by
  simp only [readPath, h, Bool.not_false, if_true]

theorem readPath_length (h : byteCountOk (byteAt F 2) = true) (hl : F.length ≠ 5 + (byteAt F 2).toNat) :
    readPath F s = finish .errLength s := by
  simp only [readPath, h, Bool.not_true, Bool.false_eq_true, if_false, if_pos hl]

theorem readPath_data (h : byteCountOk (byteAt F 2) = true) (hl : F.length = 5 + (byteAt F 2).toNat) :
    readPath F s =
      { s with
        values := writeCells s.values 0 (frameValues F ((byteAt F 2).toNat / 2)),
        nvalues := BitVec.ofNat 8 ((byteAt F 2).toNat / 2), status := 0x02#8 } := by
  simp only [readPath, h, Bool.not_true, Bool.false_eq_true, if_false, if_neg (not_not_intro hl)]
  exact finish_of_flag_zero rfl _

end ReadPath

/-- Settles O33: the path's three ends; in the last, VALUES holds the frame's values. -/
theorem readPathExtractsTheValues : Obligations.ReadPathExtractsTheValues := by
  intro F s bc
  refine ⟨fun hbad => ?_, fun h₀ h₁ h₂ hl => ?_, fun h₀ h₁ h₂ hl => ?_⟩
  · exact readPath_byteCount ((byteCountOk_eq_false_iff bc).mpr hbad)
  · exact readPath_length ((byteCountOk_iff bc).mpr ⟨h₀, h₁, h₂⟩) hl
  · rw [readPath_data ((byteCountOk_iff bc).mpr ⟨h₀, h₁, h₂⟩) hl]
    refine ⟨fun k hk => ?_, fun k hk => ?_, rfl⟩
    · exact (readCell_writeCells_frameValues ..).trans (if_pos hk)
    · exact (readCell_writeCells_frameValues ..).trans (if_neg (Nat.not_lt.mpr hk))

/-! ### The write path (R144) -/

theorem writePath_data {F : List Byte} {s : State} (h : F.length = 8) :
    writePath F s =
      { s with
        rxAddr := be16 (byteAt F 2) (byteAt F 3), rxOpnd := be16 (byteAt F 4) (byteAt F 5),
        values := writeCell s.values 0 (be16 (byteAt F 4) (byteAt F 5)), nvalues := 1#8, status := 0x02#8 } := by
  rw [writePath, if_neg (not_not_intro h)]
  exact finish_of_flag_zero rfl _

/-- Settles O34: the path's one check, and the write of VALUES[0]. -/
theorem writePathReportsTheEcho : Obligations.WritePathReportsTheEcho := by
  intro F s v
  refine ⟨fun h => if_pos h, fun h => ?_⟩
  rw [writePath_data h]
  exact ⟨readCell_writeCell_same _ _ _, fun k hk => (readCell_writeCell _ _ _ _).trans (if_neg hk), rfl⟩

/-! ### DEC_FRAME (R150) -/

theorem exec_decFrame (s : State) : exec .decFrame s = .next (decodeAnyFrame (received s) s) := rfl

/-- DEC_FRAME on a frame the CRC stage rejects for its length. -/
theorem decodeAnyFrame_length {F : List Byte} {s : State} (h : F.length < 4 ∨ 256 < F.length) :
    decodeAnyFrame F s = finish .errLength (clearResults s) := by
  rw [decodeAnyFrame, crcStage_length h]

/-- DEC_FRAME on a frame the CRC stage rejects for its CRC. -/
theorem decodeAnyFrame_crc {F : List Byte} {s : State} (h₁ : 4 ≤ F.length) (h₂ : F.length ≤ 256)
    (h : crc16 s.cfg.crcInit (frameBody F) ≠ crcField F) :
    decodeAnyFrame F s =
      finish .errCrc { clearResults s with crc := crc16 s.cfg.crcInit (frameBody F), rxCrc := crcField F } := by
  rw [decodeAnyFrame, crcStage_crc (s := clearResults s) h₁ h₂ h]
  rfl

/-- The state that passed the CRC stage, said of RXLEN and of the received frame. -/
theorem afterStage_received (s : State) : afterStage (received s) s = passedCrcStage s := by
  rw [afterStage, received_length, passedCrcStage]

/-- PLEN holds `n - 4` exactly: the stage passes no frame above 256 bytes. -/
theorem passedCrcStage_plen_toNat {s : State} (h : s.rxlen.toNat ≤ 256) :
    (passedCrcStage s).plen.toNat = s.rxlen.toNat - 4 :=
  (BitVec.toNat_ofNat ..).trans (Nat.mod_eq_of_lt (by omega))

/-- The payload's split by the frame's length: PLEN ≥ 2 is n ≥ 6, PLEN ≥ 4 is n ≥ 8. -/
theorem splitPayload_passedCrcStage {F : List Byte} {s : State} (h : s.rxlen.toNat ≤ 256) :
    splitPayload F (passedCrcStage s) =
      { passedCrcStage s with
        rxAddr := if 6 ≤ s.rxlen.toNat then be16 (byteAt F 2) (byteAt F 3) else 0#16
        rxOpnd := if 8 ≤ s.rxlen.toNat then be16 (byteAt F 4) (byteAt F 5) else 0#16 } := by
  have h2 : 2 ≤ (passedCrcStage s).plen.toNat ↔ 6 ≤ s.rxlen.toNat := by rw [passedCrcStage_plen_toNat h]; omega
  have h4 : 4 ≤ (passedCrcStage s).plen.toNat ↔ 8 ≤ s.rxlen.toNat := by rw [passedCrcStage_plen_toNat h]; omega
  simp only [splitPayload_eq, h2, h4]
  rfl

/-- Settles O39: the CRC stage's three ends, the last with the payload split by the frame's length. -/
theorem decFrameSplitsAnyFrame : Obligations.DecFrameSplitsAnyFrame := by
  refine ⟨decodeCommand_of_imm8_zero (i := 6) (by decide) (by decide) (by decide), ?_⟩
  intro s n F
  have hlen : F.length = n := received_length s
  rw [exec_decFrame]
  refine ⟨fun h => ?length, fun h₁ h₂ hbad => ?crc, fun h₁ h₂ hgood => ?frame⟩
  case length =>
    rw [decodeAnyFrame_length (by rwa [hlen])]
    rfl
  case crc =>
    rw [decodeAnyFrame_crc (by rwa [hlen]) (by rwa [hlen]) hbad]
    rfl
  case frame =>
    rw [decodeAnyFrame_afterStage (by rwa [hlen]) (by rwa [hlen]) hgood, afterStage_received,
      splitPayload_passedCrcStage h₂, finish_of_flag_zero rfl]
    rfl

end Sys2Proof.Machine

/-! PROOF. The family of 43_utility.md: NOP (R170), LOOP (R171), the illegal words (R172). -/

namespace Sys2Proof.Machine

/-! ### LOOP (R171) -/

theorem exec_loop (s : State) : exec .loop s = .next (loopBack s) := rfl

/-- LOOP writes RXBUF, RXLEN and STATUS only: OK sets no ERRFLAGS bit. -/
theorem loopBack_frame (s : State) :
    loopBack s = { s with rxbuf := (loopBack s).rxbuf, rxlen := s.txlen, status := 0x01#8 } :=
  finish_of_flag_zero (c := .ok) rfl _

/-- Settles O51: the word by its row of the map, RXBUF by the copy on both sides of TXLEN, and the frame. -/
theorem loopCopiesTheTransmitFrame : Obligations.LoopCopiesTheTransmitFrame := by
  refine ⟨decodeCommand_of_imm8_zero (i := 7) (by decide) (by decide) (by decide), fun s hs => ?_⟩
  refine ⟨_, exec_loop s, fun i hi => ?below, fun i hi => ?above, loopBack_frame s⟩
  case below => rw [loopBack_rxbuf s hs, if_pos hi]
  case above => rw [loopBack_rxbuf s hs, if_neg (Nat.not_lt.mpr hi)]

/-! ### Illegal words (R172) -/

/-- IllegalCommand finishes with its code, whatever the word. -/
theorem exec_illegal (w : Word) (s : State) : exec (.illegal w) s = .next (finish .errIllegalCmd s) := rfl

/-- Settles O52: the illegal words match no row of the map, and IllegalCommand does nothing but finish with its code. -/
theorem illegalWordRecordsOnlyItsCode : Obligations.IllegalWordRecordsOnlyItsCode :=
  ⟨fun _ => decodeCommand_illegal, exec_illegal⟩

/-! ### NOP (R170) -/

theorem exec_nop (s : State) : exec .nop s = .next s := rfl

/-- A word decodes by a row of the opcode map that it matches, or is illegal (R72, R73). -/
theorem decodeCommand_row_or_illegal (w : Word) :
    (∃ r ∈ opcodeMap, w &&& r.mask = r.pattern ∧ decodeCommand w = r.build (imm8Field w)) ∨
      decodeCommand w = .illegal w := by
  unfold decodeCommand
  split
  · next r hr => exact .inl ⟨r, List.mem_of_find?_eq_some hr, beq_iff_eq.mp (List.find?_some hr :), rfl⟩
  · exact .inr rfl

/-- Only the row of the word 0x0000, which fixes all 16 bits, builds NOP. -/
theorem opcodeMap_row_of_nop {r : OpcodeRow} (hr : r ∈ opcodeMap) {imm8 : Byte} (h : r.build imm8 = .nop) :
    r.pattern = 0x0000#16 ∧ r.mask = 0xFFFF#16 := by
  simp only [opcodeMap, List.mem_cons, List.not_mem_nil, or_false] at hr
  rcases hr with rfl | rfl | rfl | rfl | rfl | rfl | rfl | rfl
  case inl => exact ⟨rfl, rfl⟩
  all_goals cases h

theorem decodeCommand_eq_nop_iff (w : Word) : decodeCommand w = .nop ↔ w = 0x0000#16 := by
  refine ⟨fun h => ?_, fun h => h ▸ decodeCommand_of_imm8_zero (i := 0) (by decide) (by decide) (by decide)⟩
  rcases decodeCommand_row_or_illegal w with ⟨r, hr, hmatch, hbuild⟩ | hillegal
  · obtain ⟨hpattern, hmask⟩ := opcodeMap_row_of_nop hr (hbuild.symm.trans h)
    calc w = w &&& 0xFFFF#16 := BitVec.and_allOnes.symm
      _ = 0x0000#16 := by rw [← hmask, hmatch, hpattern]
  · exact absurd (hillegal.symm.trans h) nofun

/-- Settles O50: the one word by the rows of the map, the meaning by its arm. -/
theorem nopDoesNothing : Obligations.NopDoesNothing := ⟨decodeCommand_eq_nop_iff, exec_nop⟩

end Sys2Proof.Machine

/-! PROOF. The family of 60_exceptions.md: a command reports its first failing check (R203). -/

namespace Sys2Proof.Machine

/-! ### The first failing check (R203) -/

/-- One check of the list: it fails and gives the code, or it passes and the rest of the list decides. -/
theorem firstCode_cons {p : Prop} {c done code : Byte} {rest : List (Prop × Byte)} (failed : p → code = c)
    (passed : ¬p → firstCode rest done code) : firstCode ((p, c) :: rest) done code := by
  by_cases h : p
  · exact .inl ⟨h, failed h⟩
  · exact .inr ⟨h, passed h⟩

theorem firstCode_nil {done code : Byte} (h : code = done) : firstCode [] done code := h

/-! ### ENC_READ -/

/-- ENC_READ's one check is the count's (R120). -/
theorem buildReadRequest_firstCode (slave : Byte) (addr count : Word) (s : State) :
    firstCode [(count.toNat < 1 ∨ 125 < count.toNat, 0x11#8)] 0x01#8 (buildReadRequest slave addr count s).status := by
  rcases buildReadRequest_cases slave addr count s with ⟨hbad, hend⟩ | ⟨hlow, hhigh, hend⟩ <;> rw [hend]
  · exact firstCode_cons (fun _ => rfl) (absurd hbad)
  · exact firstCode_cons (fun hbad => by omega) (fun _ => firstCode_nil rfl)

/-! ### DEC_RESP -/

/-- Steps 7 and 8 of R203: the checks of the read path and of the write path. -/
def dataPathChecks (F : List Byte) (s : State) : List (Prop × Byte) :=
  [ (s.func = 0x03#8 ∧ (byteAt F 2 = 0#8 ∨ (byteAt F 2).getLsbD 0 = true ∨ 250 < (byteAt F 2).toNat), 0x16#8),
    (s.func = 0x03#8 ∧ F.length ≠ 5 + (byteAt F 2).toNat, 0x12#8),
    (s.func = 0x06#8 ∧ F.length ≠ 8, 0x12#8) ]

/-- Steps 4 to 8 of R203: the slave address, the function code, then the checks of the path it selects. -/
def selectPathChecks (F : List Byte) (s : State) : List (Prop × Byte) :=
  (byteAt F 0 ≠ s.slave, 0x14#8) ::
  (byteAt F 1 = s.func ||| 0x80#8 ∧ F.length ≠ 5, 0x12#8) :: (byteAt F 1 = s.func ||| 0x80#8, 0x03#8) ::
  (byteAt F 1 ≠ s.func, 0x15#8) :: dataPathChecks F s

/-- DEC_RESP's checks in the order of R203. -/
def decodeRespChecks (F : List Byte) (s : State) : List (Prop × Byte) :=
  (¬FuncValid s, 0x11#8) :: (F.length < 5 ∨ 256 < F.length, 0x12#8) ::
  (crc16 s.cfg.crcInit (frameBody F) ≠ crcField F, 0x13#8) :: selectPathChecks F s

theorem readPath_firstCode {F : List Byte} {s : State} (hf : s.func = 0x03#8) :
    firstCode (dataPathChecks F s) 0x02#8 (readPath F s).status := by
  refine firstCode_cons (fun ⟨_, hbad⟩ => ?byteCount) fun hok => ?_
  case byteCount => rw [readPath_byteCount ((byteCountOk_eq_false_iff _).mpr hbad)]; rfl
  have hbc : byteCountOk (byteAt F 2) = true :=
    Bool.of_not_eq_false fun hbad => hok ⟨hf, (byteCountOk_eq_false_iff _).mp hbad⟩
  refine firstCode_cons (fun ⟨_, hl⟩ => ?length) fun hl => ?_
  case length => rw [readPath_length hbc hl]; rfl
  refine firstCode_cons (fun ⟨h06, _⟩ => ?otherFunc) fun _ => firstCode_nil ?data
  case otherFunc => exact absurd (hf.symm.trans h06) (by decide)
  case data => rw [readPath_data hbc (of_not_not fun h => hl ⟨hf, h⟩)]

theorem writePath_firstCode {F : List Byte} {s : State} (hf : s.func = 0x06#8) :
    firstCode (dataPathChecks F s) 0x02#8 (writePath F s).status := by
  have notRead : s.func ≠ 0x03#8 := by rw [hf]; decide
  refine firstCode_cons (fun h => absurd h.1 notRead) fun _ => firstCode_cons (fun h => absurd h.1 notRead) fun _ => ?_
  refine firstCode_cons (fun ⟨_, hl⟩ => ?length) fun hl => firstCode_nil ?data
  case length => rw [(writePathReportsTheEcho F s).1 hl]
  case data => rw [writePath_data (of_not_not fun h => hl ⟨hf, h⟩)]

theorem selectPath_firstCode {F : List Byte} {s : State} (hf : FuncValid s) :
    firstCode (selectPathChecks F s) 0x02#8 (selectPath F s).status := by
  refine firstCode_cons (fun hs => ?slave) fun hs => ?_
  case slave => rw [selectPath_slave hs]; rfl
  have hslave : byteAt F 0 = s.slave := of_not_not hs
  refine firstCode_cons (fun ⟨hexc, hl⟩ => ?exceptionLength) fun hl => ?_
  case exceptionLength => rw [selectPath_exception hslave hexc, (exceptionPathReportsTheCode F s).1 hl]
  refine firstCode_cons (fun hexc => ?exception) fun hexc => ?_
  case exception =>
    have h5 : F.length = 5 := of_not_not fun h => hl ⟨hexc, h⟩
    rw [selectPath_exception hslave hexc, (exceptionPathReportsTheCode F s).2 h5]
  refine firstCode_cons (fun hfn => ?function) fun hfn => ?_
  case function => rw [selectPath_function hslave hexc hfn]; rfl
  rw [selectPath_data hslave (of_not_not hfn) hf]
  rcases hf with h03 | h06
  · rw [if_pos h03]; exact readPath_firstCode h03
  · rw [if_neg (by rw [h06]; decide)]; exact writePath_firstCode h06

theorem decodeResp_firstCode (F : List Byte) (s : State) :
    firstCode (decodeRespChecks F s) 0x02#8 (decodeResp F s).status := by
  refine firstCode_cons (fun hf => ?operand) fun hf => ?_
  case operand => rw [decodeResp_of_not_funcValid hf]; rfl
  have hvalid : FuncValid s := of_not_not hf
  refine firstCode_cons (fun hl => ?length) fun hl => ?_
  case length => rw [decodeResp_of_stage_error hvalid (crcStage_length hl)]; rfl
  have h₁ : 5 ≤ F.length := by omega
  have h₂ : F.length ≤ 256 := by omega
  refine firstCode_cons (fun hbad => ?crc) fun hgood => ?_
  case crc => rw [decodeResp_of_stage_error hvalid (crcStage_crc (s := clearResults s) h₁ h₂ hbad)]; rfl
  rw [decodeResp_afterStage hvalid h₁ h₂ (of_not_not hgood)]
  exact selectPath_firstCode (s := afterStage F s) hvalid

/-! ### DEC_FRAME -/

theorem decodeAnyFrame_firstCode (F : List Byte) (s : State) :
    firstCode
      [(F.length < 4 ∨ 256 < F.length, 0x12#8), (crc16 s.cfg.crcInit (frameBody F) ≠ crcField F, 0x13#8)]
      0x04#8 (decodeAnyFrame F s).status := by
  refine firstCode_cons (fun hl => ?length) fun hl => ?_
  case length => rw [decodeAnyFrame_length hl]; rfl
  have h₁ : 4 ≤ F.length := by omega
  have h₂ : F.length ≤ 256 := by omega
  refine firstCode_cons (fun hbad => ?crc) fun hgood => firstCode_nil ?frame
  case crc => rw [decodeAnyFrame_crc h₁ h₂ hbad]; rfl
  case frame => rw [decodeAnyFrame_afterStage h₁ h₂ (of_not_not hgood)]; rfl

/-- Settles O38: each command's checks in the order its meaning makes them, the frame being the received one. -/
theorem firstFailingCheckIsReported : Obligations.FirstFailingCheckIsReported := by
  intro s t n F bc exc
  have hlen : F.length = n := received_length s
  refine ⟨fun w hw h => ?illegal, fun h => ?encRead, fun h => ?decResp, fun h => ?decFrame⟩
  case illegal =>
    rw [decodeCommand_illegal hw] at h
    cases h
    rfl
  case encRead =>
    cases h
    exact buildReadRequest_firstCode s.slave s.addr s.opnd s
  case decResp =>
    cases h
    have h := decodeResp_firstCode F s
    rw [decodeRespChecks, selectPathChecks, dataPathChecks, hlen] at h
    exact h
  case decFrame =>
    cases h
    have h := decodeAnyFrame_firstCode F s
    rw [hlen] at h
    exact h

end Sys2Proof.Machine

/-! PROOF. The family of 70_reset_and_hazards.md: the reset event (R230). -/

namespace Sys2Proof.Machine

/-- Settles O1: the step serves the reset event, and `resetBlock` is the state after reset with the parameter and the
host side kept. -/
theorem resetSetsEveryRegister : Obligations.ResetSetsEveryRegister := by
  intro s rest hp
  rw [step_reset hp, resetBlock, State.resetWith]

end Sys2Proof.Machine

/-! PROOF. What every instruction and every step keeps: the host side, the recorded errors, STATUS (10_state.md section 2,
60_exceptions.md sections 1 and 3). -/

namespace Sys2Proof.Machine

/-! ### Every instruction but NOP ends with `finish` (R200) -/

/-- `t` is `finish` of a state that kept the ERRFLAGS, the parameter and the host side of `s`. -/
def Finishes (s t : State) : Prop :=
  ∃ c u, c ≠ Status.none ∧ t = finish c u ∧
    u.errflags = s.errflags ∧ u.cfg = s.cfg ∧ u.pending = s.pending ∧ u.returned = s.returned

theorem buildRequest_finishes (fc slave : Byte) (addr operand : Word) (s : State) :
    Finishes s (buildRequest fc slave addr operand s) :=
  ⟨.ok, _, Status.noConfusion, rfl, rfl, rfl, rfl, rfl⟩

theorem buildReadRequest_finishes (slave : Byte) (addr count : Word) (s : State) :
    Finishes s (buildReadRequest slave addr count s) := by
  rcases buildReadRequest_cases slave addr count s with ⟨_, h⟩ | ⟨_, _, h⟩ <;> rw [h]
  · exact ⟨.errOperand, _, Status.noConfusion, rfl, rfl, rfl, rfl, rfl⟩
  · exact buildRequest_finishes ..

theorem decodeResp_finishes (F : List Byte) (s : State) : Finishes s (decodeResp F s) := by
  obtain ⟨c, _, _, _, _, _, _, _, _, _, _, hc, h⟩ := decodeResp_frame F s
  exact ⟨c, _, hc, h, rfl, rfl, rfl, rfl⟩

theorem decodeAnyFrame_finishes (F : List Byte) (s : State) : Finishes s (decodeAnyFrame F s) := by
  obtain ⟨c, _, _, _, _, _, _, _, hc, h⟩ := decodeAnyFrame_frame F s
  exact ⟨c, _, hc, h, rfl, rfl, rfl, rfl⟩

theorem exec_finishes {i : Instr} {s t : State} (hi : i ≠ .nop) (h : exec i s = .next t) : Finishes s t := by
  cases i <;> cases h
  case nop => exact absurd rfl hi
  case crcInit | crcByte | loop => exact ⟨.ok, _, Status.noConfusion, rfl, rfl, rfl, rfl, rfl⟩
  case illegal => exact ⟨.errIllegalCmd, s, Status.noConfusion, rfl, rfl, rfl, rfl, rfl⟩
  case encRead | frameReadRequest => exact buildReadRequest_finishes ..
  case encWrite | frameWriteRequest => exact buildRequest_finishes ..
  case decResp | frameReadResponse | frameWriteResponse | frameExceptionResponse => exact decodeResp_finishes ..
  case decFrame => exact decodeAnyFrame_finishes ..

/-- Settles O10: `finish` by its definition, the codes without a bit as `finish_of_flag_zero` says. -/
theorem finishRecordsItsCode : Obligations.FinishRecordsItsCode := by
  refine ⟨fun s => ⟨?_, ?_, rfl, ?_, rfl, rfl, rfl, rfl, rfl, rfl, rfl⟩, fun i s t hi h => ?_⟩
  · exact finish_of_flag_zero rfl s
  · exact finish_of_flag_zero rfl s
  · exact finish_of_flag_zero rfl s
  · obtain ⟨c, u, hc, ht, herr, -⟩ := exec_finishes hi h
    exact ⟨c, u, hc, herr, ht⟩

/-- Settles O11. -/
theorem everyInstructionCompletes : Obligations.EveryInstructionCompletes := exec_completes

/-- Settles O12: NOP keeps the whole state, every other instruction finishes. -/
theorem instructionsLeaveTheHostSide : Obligations.InstructionsLeaveTheHostSide := by
  intro i s t h
  by_cases hi : i = .nop
  · subst hi
    cases h
    exact ⟨rfl, rfl, rfl⟩
  · obtain ⟨c, u, -, rfl, -, hside⟩ := exec_finishes hi h
    exact hside

/-! ### The address map inverted (R51) -/

/-- Each register stands at one address only. -/
theorem portAddr_of_portReg {a : PortAddr} {r : PortReg} (h : portReg a = some r) : portAddr r = a := by
  refine BitVec.eq_of_toNat_eq ?_
  rcases Nat.lt_or_ge a.toNat 0x012 with hlo | hhi
  · interval_cases ha : a.toNat
    all_goals
      rw [portReg, ha] at h
      cases h
      rfl
  · rw [portReg_above hhi] at h
    split_ifs at h <;> cases h <;> simp only [portAddr, BitVec.toNat_ofNat] <;> omega

/-- RXBUF has 256 entries on the port. -/
theorem rxbuf_index_lt {a : PortAddr} {i : Nat} (h : portReg a = some (.rxbuf i)) : i < 256 := by
  rcases Nat.lt_or_ge a.toNat 0x012 with hlo | hhi
  · exfalso
    interval_cases ha : a.toNat
    all_goals
      rw [portReg, ha] at h
      cases h
  · rw [portReg_above hhi] at h
    split_ifs at h <;> simp only [Option.some.injEq, PortReg.rxbuf.injEq, reduceCtorEq] at h
    omega

theorem access_eq_wo {r : PortReg} (h : access r = .wo) : r = .cmd := by
  cases r
  case cmd => rfl
  all_goals cases h

theorem access_eq_w1c {r : PortReg} (h : access r = .w1c) : r = .errflags := by
  cases r
  case errflags => rfl
  all_goals cases h

/-- CMD and ERRFLAGS by the address a host write has to name (R53): a write that ends well is a command at 0x000, a clear
of ERRFLAGS at 0x002, a store to an RW register, or nothing. -/
theorem hostWrite_ends {a : PortAddr} {d : Word} {s t : State} (h : hostWrite a d s = .next t) :
    (a = 0x000#12 ∧ exec (decodeCommand d) s = .next t) ∨ (a = 0x002#12 ∧ t = clearErrFlags d s) ∨
    (∃ r, portReg a = some r ∧ t = writeReg r d s) ∨ t = s := by
  obtain ⟨r, hr, ⟨ha, e⟩ | ⟨ha, e⟩ | ⟨-, e⟩ | ⟨-, e⟩⟩ := hostWrite_next h
  · exact .inl ⟨by rw [← portAddr_of_portReg hr, access_eq_wo ha]; rfl, e⟩
  · exact .inr (.inl ⟨by rw [← portAddr_of_portReg hr, access_eq_w1c ha]; rfl, e⟩)
  · exact .inr (.inr (.inl ⟨r, hr, e⟩))
  · exact .inr (.inr (.inr e))

/-! ### What clears ERRFLAGS and what writes STATUS (10_state.md R22, R23) -/

/-- Recording an outcome clears no ERRFLAGS bit. -/
theorem Finishes.keeps_errflags_bit {s t : State} (h : Finishes s t) {k : Nat} (hk : s.errflags.getLsbD k = true) :
    t.errflags.getLsbD k = true := by
  obtain ⟨c, u, -, rfl, herr, -⟩ := h
  simp [herr, hk]

theorem exec_keeps_errflags_bit {i : Instr} {s t : State} (h : exec i s = .next t) {k : Nat}
    (hk : s.errflags.getLsbD k = true) : t.errflags.getLsbD k = true := by
  by_cases hi : i = .nop
  · subst hi
    cases h
    exact hk
  · exact (exec_finishes hi h).keeps_errflags_bit hk

/-- A bit that `clearErrFlags` clears is 1 in the word written. -/
theorem clearErrFlags_clears_only {d : Word} {s : State} {k : Nat} (hk : s.errflags.getLsbD k = true)
    (h : (clearErrFlags d s).errflags.getLsbD k = false) : d.getLsbD k = true := by
  have hlt : k < 8 := BitVec.lt_of_getLsbD hk
  simpa [hk, hlt] using h

/-- Settles O8: of the inputs a step serves, every other one keeps the bit. -/
theorem errFlagsClearedOnlyByHostOrReset : Obligations.ErrFlagsClearedOnlyByHostOrReset := by
  intro s t k h hs ht
  have kept : t.errflags.getLsbD k ≠ true := by simp [ht]
  rcases step_cases s with ⟨_, e⟩ | ⟨a, rest, _, e⟩ | ⟨a, d, rest, hp, e⟩ | ⟨rest, hp, _⟩
  · cases e.symm.trans h
    exact absurd hs kept
  · obtain ⟨r, -, rfl⟩ := hostRead_next (e.symm.trans h)
    exact absurd hs kept
  · rcases hostWrite_ends (e.symm.trans h) with ⟨-, hexec⟩ | ⟨rfl, rfl⟩ | ⟨r, -, rfl⟩ | rfl
    · exact absurd (exec_keeps_errflags_bit hexec hs) kept
    · exact .inr ⟨d, rest, hp, clearErrFlags_clears_only hs ht⟩
    · obtain ⟨-, -, -, -, herr, -⟩ := writeReg_keeps r d { s with pending := rest }
      exact absurd (by rw [herr]; exact hs) kept
    · exact absurd hs kept
  · exact .inl ⟨rest, hp⟩

/-- Settles O9: only a command reaches `finish`, and the word 0x0000 is NOP. -/
theorem statusWrittenOnlyByCommandsAndReset : Obligations.StatusWrittenOnlyByCommandsAndReset := by
  intro s t h hne
  rcases step_cases s with ⟨_, e⟩ | ⟨a, rest, _, e⟩ | ⟨a, d, rest, hp, e⟩ | ⟨rest, hp, _⟩
  · cases e.symm.trans h
    exact absurd rfl hne
  · obtain ⟨r, -, rfl⟩ := hostRead_next (e.symm.trans h)
    exact absurd rfl hne
  · rcases hostWrite_ends (e.symm.trans h) with ⟨rfl, hexec⟩ | ⟨rfl, rfl⟩ | ⟨r, -, rfl⟩ | rfl
    · refine .inr ⟨d, rest, hp, fun hd => ?_⟩
      rw [(decodeCommand_eq_nop_iff d).mpr hd, exec_nop] at hexec
      cases hexec
      exact hne rfl
    · exact absurd rfl hne
    · obtain ⟨-, -, -, hstatus, -⟩ := writeReg_keeps r d { s with pending := rest }
      exact absurd hstatus hne
    · exact absurd rfl hne
  · exact .inl ⟨rest, hp⟩

/-! ### A host that keeps to mapped addresses (60_exceptions.md R202) -/

/-- A step takes the oldest pending input and no other. -/
theorem step_pending {s t : State} (h : step s = .next t) : t.pending = s.pending.tail := by
  rcases step_cases s with ⟨hp, e⟩ | ⟨a, rest, hp, e⟩ | ⟨a, d, rest, hp, e⟩ | ⟨rest, hp, e⟩ <;> rw [hp, List.tail]
  · cases e.symm.trans h
    exact hp
  · obtain ⟨r, -, rfl⟩ := hostRead_next (e.symm.trans h)
    rfl
  · rcases hostWrite_ends (e.symm.trans h) with ⟨-, hexec⟩ | ⟨-, rfl⟩ | ⟨r, -, rfl⟩ | rfl
    · obtain ⟨-, hpending, -⟩ := instructionsLeaveTheHostSide _ _ _ hexec
      exact hpending
    · rfl
    · obtain ⟨-, hpending, -⟩ := writeReg_keeps r d { s with pending := rest }
      exact hpending
    · rfl
  · cases e.symm.trans h
    rfl

/-- With all pending accesses mapped, the next one is. -/
theorem State.AllMapped.not_unmapped {s : State} (h : s.AllMapped = true) {a : PortAddr} (hs : s.ServesAccess a) :
    ¬Unmapped a := by
  have isMapped : (portReg a).isSome = true := by
    obtain ⟨rest, hp | ⟨d, hp⟩⟩ := hs
    all_goals
      rw [State.AllMapped, hp, List.all_cons, Bool.and_eq_true] at h
      exact h.1
  intro hu
  rw [(portReg_eq_none_iff a).mpr hu] at isMapped
  cases isMapped

theorem step_of_allMapped {s : State} (h : s.AllMapped = true) : ∃ t, step s = .next t ∧ t.AllMapped = true := by
  obtain ⟨t, ht⟩ := step_completes fun a hs => State.AllMapped.not_unmapped h hs
  refine ⟨t, ht, ?_⟩
  rw [State.AllMapped, step_pending ht]
  exact List.all_eq_true.mpr fun x hx => List.all_eq_true.mp h x (List.mem_of_mem_tail hx)

/-- Settles O7, by induction on the number of steps: each takes one mapped input and leaves the others. -/
theorem mappedHostNeverStops : Obligations.MappedHostNeverStops := by
  intro n
  induction n with
  | zero => exact fun s h => ⟨s, rfl, h⟩
  | succ n ih =>
    intro s h
    obtain ⟨t, ht, hmapped⟩ := step_of_allMapped h
    rw [run_step n ht]
    exact ih t hmapped

end Sys2Proof.Machine

/-! PROOF. The two directions of decoding and encoding (30_encoding.md R70 to R82), and a table word presented (log 6). -/

namespace Sys2Proof.Machine

/-! ### Command words -/

theorem illegalWord_iff (w : Word) :
    illegalWord w = true ↔ 8 ≤ (opField w).toNat ∨ (opField w ≠ 0x02#8 ∧ imm8Field w ≠ 0x00#8) := by
  simp only [illegalWord, Bool.or_eq_true, Bool.and_eq_true, decide_eq_true_eq]

theorem decodeCommand_be16_crcByte (b : Byte) : decodeCommand (be16 b 0x02#8) = .crcByte b := by
  rw [decodeCommand_crcByte (loByte_be16 b _)]
  exact congrArg _ (hiByte_be16 b _)

/-- A command word is the encoding of what it decodes to (R72, R73). -/
theorem encode_decodeCommand (init w : Word) :
    encode init (decodeCommand w) = .command w ∧ (decodeCommand w).WellFormed = true := by
  by_cases hill : illegalWord w = true
  · rw [decodeCommand_illegal ((illegalWord_iff w).mp hill)]
    exact ⟨rfl, hill⟩
  · rw [illegalWord_iff, not_or, Nat.not_le, not_and_or, not_not, not_not] at hill
    obtain ⟨hop, h02 | himm⟩ := hill
    · rw [decodeCommand_crcByte h02]
      refine ⟨?_, rfl⟩
      rw [encode, ← h02]
      exact congrArg _ (be16_hi_lo w)
    · have hw : be16 0x00#8 (opField w) = w := by rw [← himm]; exact be16_hi_lo w
      rw [← hw]
      have hcode : opField w = BitVec.ofNat 8 (opField w).toNat := by simp
      rw [hcode]
      interval_cases (opField w).toNat <;> exact ⟨rfl, rfl⟩

/-! ### The bytes of a frame -/

theorem byteAt_ext {F G : List Byte} (hl : F.length = G.length) (h : ∀ i, i < F.length → byteAt F i = byteAt G i) :
    F = G := by
  refine List.ext_getElem hl fun i hF hG => ?_
  simpa [byteAt, hF, hG] using h i hF

theorem byteAt_append_left {F G : List Byte} {i : Nat} (h : i < F.length) : byteAt (F ++ G) i = byteAt F i :=
  List.getD_append _ _ _ _ h

theorem byteAt_append_right (F G : List Byte) (i : Nat) : byteAt (F ++ G) (F.length + i) = byteAt G i := by
  rw [byteAt, List.getD_append_right _ _ _ _ (Nat.le_add_right _ i), Nat.add_sub_cancel_left]
  rfl

theorem byteAt_frameBody {F : List Byte} {i : Nat} (h : i < F.length - 2) : byteAt (frameBody F) i = byteAt F i := by
  simp only [byteAt, frameBody, List.getD_eq_getElem?_getD, List.getElem?_take_of_lt h]

@[simp] theorem frameBody_length (F : List Byte) : (frameBody F).length = F.length - 2 := by
  simp [frameBody]

/-- The bytes of the register values: value `k` at bytes 2k (high) and 2k + 1 (low) (R78). -/
theorem byteAt_flatMap_wordBytes (values : List Word) {k : Nat} (h : k < values.length) :
    byteAt (values.flatMap wordBytes) (2 * k) = hiByte values[k] ∧
    byteAt (values.flatMap wordBytes) (2 * k + 1) = loByte values[k] := by
  induction values generalizing k with
  | nil => cases h
  | cons v vs ih =>
    cases k with
    | zero => exact ⟨rfl, rfl⟩
    | succ k => exact ih (Nat.lt_of_succ_lt_succ h)

theorem frameValues_getElem {F : List Byte} {n k : Nat} (h : k < (frameValues F n).length) :
    (frameValues F n)[k] = be16 (byteAt F (3 + 2 * k)) (byteAt F (4 + 2 * k)) := by
  simp [frameValues]

/-- The bytes of a sealed frame determine its body and its CRC field (R74, R75). -/
@[simp] theorem frameBody_sealFrame (init : Word) (B : List Byte) : frameBody (sealFrame init B) = B :=
  frameBody_append_crcBytes B _

@[simp] theorem crcField_sealFrame (init : Word) (B : List Byte) : crcField (sealFrame init B) = crc16 init B :=
  crcField_append_crcBytes B _

/-- A frame of eight bytes is read as slave, function code, address, operand and CRC field (R76, R77, R79). -/
theorem requestBody_append_crcField {F : List Byte} (h : F.length = 8) :
    requestBody (byteAt F 1) (byteAt F 0) (be16 (byteAt F 2) (byteAt F 3)) (be16 (byteAt F 4) (byteAt F 5)) ++
      crcBytes (crcField F) = F := by
  match F, h with
  | [_, _, _, _, _, _, _, _], _ => simp [requestBody, wordBytes, crcBytes, crcField, byteAt]

/-- A frame of five bytes is read as slave, function code, exception code and CRC field (R80). -/
theorem exception_append_crcField {F : List Byte} (h : F.length = 5) :
    [byteAt F 0, byteAt F 1, byteAt F 2] ++ crcBytes (crcField F) = F := by
  match F, h with
  | [_, _, _, _, _], _ => simp [crcBytes, crcField, byteAt]

/-! ### The byte count of a read response (R78) -/

theorem toNat_byteCount {n : Nat} (h : n ≤ 125) : (BitVec.ofNat 8 (2 * n)).toNat = 2 * n := by
  rw [BitVec.toNat_ofNat]
  omega

theorem byteCountOk_double {n : Nat} (h₁ : 1 ≤ n) (h₂ : n ≤ 125) : byteCountOk (BitVec.ofNat 8 (2 * n)) = true := by
  have hval := toNat_byteCount h₂
  refine (byteCountOk_iff _).mpr ⟨fun h => ?_, ?_, by omega⟩
  · rw [h] at hval
    simp at hval
    omega
  · rw [BitVec.getLsbD, hval, Nat.testBit_zero]
    simp

/-- A byte count that is ok is the double of the number of values. -/
theorem byteCountOk_half {bc : Byte} (h : byteCountOk bc = true) :
    1 ≤ bc.toNat / 2 ∧ bc.toNat / 2 ≤ 125 ∧ 2 * (bc.toNat / 2) = bc.toNat := by
  obtain ⟨hne, heven, hle⟩ := (byteCountOk_iff bc).mp h
  have hpos : bc.toNat ≠ 0 := fun h => hne (BitVec.eq_of_toNat_eq h)
  rw [BitVec.getLsbD, Nat.testBit_zero, decide_eq_false_iff_not] at heven
  omega

/-! ### Requests (R76, R77) -/

/-- The request of these fields, decoded: the function code and, for a read request, the count decide (R76, R77). -/
theorem decodeRequest_sealFrame (init : Word) (fc slave : Byte) (addr operand : Word) :
    decodeRequest init (sealFrame init (requestBody fc slave addr operand)) =
      if fc = 0x03#8 then
        if countMin ≤ operand.toNat ∧ operand.toNat ≤ countMax then .ok (.frameReadRequest slave addr operand)
        else .error .countRange
      else if fc = 0x06#8 then .ok (.frameWriteRequest slave addr operand)
      else .error .functionCode := by
  have field (i : Nat) (h : i < 6) :
      byteAt (sealFrame init (requestBody fc slave addr operand)) i = byteAt (requestBody fc slave addr operand) i :=
    byteAt_sealFrame_body init h
  simp only [decodeRequest, sealFrame_length, requestBody_length, frameBody_sealFrame, crcField_sealFrame, ne_eq,
    not_true, if_false, field 0 (by omega), field 1 (by omega), field 2 (by omega), field 3 (by omega),
    field 4 (by omega), field 5 (by omega)]
  simp [requestBody, wordBytes, byteAt]

/-- What a request that decodes is: its CRC right, its function code known, a read request's count in range. -/
theorem decodeRequest_ok {init : Word} {F : List Byte} {i : Instr} (h : decodeRequest init F = .ok i) :
    ∃ fc slave addr operand, F = sealFrame init (requestBody fc slave addr operand) ∧
      ((fc = 0x03#8 ∧ 1 ≤ operand.toNat ∧ operand.toNat ≤ 125 ∧ i = .frameReadRequest slave addr operand) ∨
        (fc = 0x06#8 ∧ i = .frameWriteRequest slave addr operand)) := by
  have hlen : F.length = 8 := by
    by_contra hne
    rw [decodeRequest, if_pos hne] at h
    cases h
  have hcrc : crcField F = crc16 init (frameBody F) := by
    by_contra hne
    rw [decodeRequest, if_neg (not_not_intro hlen), if_pos hne] at h
    cases h
  have hF : F = sealFrame init (requestBody (byteAt F 1) (byteAt F 0) (be16 (byteAt F 2) (byteAt F 3))
      (be16 (byteAt F 4) (byteAt F 5))) := by
    have hbytes := requestBody_append_crcField hlen
    rw [sealFrame, ← frameBody_append_crcBytes (requestBody _ _ _ _) (crcField F), hbytes, ← hcrc,
      frameBody_append_crcField F (by omega)]
  refine ⟨_, _, _, _, hF, ?_⟩
  rw [hF, decodeRequest_sealFrame] at h
  split_ifs at h with h03 hcount h06
  · cases h
    exact .inl ⟨h03, hcount.1, hcount.2, rfl⟩
  · cases h
    exact .inr ⟨h06, rfl⟩

/-! ### Responses (R78 to R80) -/

section Response

variable {F : List Byte}

/-- A response's type is selected by its byte at offset 1 (R81). -/
theorem decodeResponse_of_length (h₁ : 5 ≤ F.length) (h₂ : F.length ≤ 256) :
    decodeResponse F =
      if byteAt F 1 = 0x83#8 then decodeException .readHolding F
      else if byteAt F 1 = 0x86#8 then decodeException .writeSingle F
      else if byteAt F 1 = 0x03#8 then decodeReadResponse F
      else if byteAt F 1 = 0x06#8 then decodeWriteResponse F
      else .error .functionCode := by
  rw [decodeResponse, if_neg (by simp only [minRespLen, maxFrame]; omega)]

theorem length_of_decodeResponse {i : Instr} (h : decodeResponse F = .ok i) : 5 ≤ F.length ∧ F.length ≤ 256 := by
  by_contra hl
  rw [decodeResponse, if_pos (by simp only [minRespLen, maxFrame]; omega)] at h
  cases h

/-- The fields of a read response (R78), by the place of each byte. -/
theorem readResponse_append_crcField (hbc : byteCountOk (byteAt F 2) = true)
    (hlen : F.length = 5 + (byteAt F 2).toNat) :
    [byteAt F 0, byteAt F 1, byteAt F 2] ++ (frameValues F ((byteAt F 2).toNat / 2)).flatMap wordBytes ++
      crcBytes (crcField F) = F := by
  obtain ⟨-, -, hdouble⟩ := byteCountOk_half hbc
  suffices hbody : [byteAt F 0, byteAt F 1, byteAt F 2] ++
      (frameValues F ((byteAt F 2).toNat / 2)).flatMap wordBytes = frameBody F by
    rw [hbody, frameBody_append_crcField F (by omega)]
  have hsize : ([byteAt F 0, byteAt F 1, byteAt F 2] ++
      (frameValues F ((byteAt F 2).toNat / 2)).flatMap wordBytes).length = (frameBody F).length := by
    simp only [List.length_append, List.length_cons, List.length_nil, flatMap_wordBytes_length, frameValues_length,
      frameBody_length]
    omega
  refine byteAt_ext hsize fun i hi => ?_
  rw [hsize, frameBody_length] at hi
  rw [byteAt_frameBody hi]
  match i with
  | 0 | 1 | 2 => rfl
  | j + 3 =>
    rw [Nat.add_comm j 3]
    refine (byteAt_append_right [byteAt F 0, byteAt F 1, byteAt F 2] _ j).trans ?_
    have hk : j / 2 < (frameValues F ((byteAt F 2).toNat / 2)).length := by rw [frameValues_length]; omega
    obtain ⟨hhi, hlo⟩ := byteAt_flatMap_wordBytes _ hk
    have hvalue := frameValues_getElem hk
    rcases Nat.mod_two_eq_zero_or_one j with hj | hj
    · rw [show 2 * (j / 2) = j by omega] at hhi hvalue
      rw [hhi, hvalue, hiByte_be16]
    · rw [show 2 * (j / 2) + 1 = j by omega] at hlo
      rw [hlo, hvalue, loByte_be16, show 4 + 2 * (j / 2) = 3 + j by omega]

theorem decodeException_ok {fc : FuncCode} {i : Instr} (h : decodeException fc F = .ok i) :
    F.length = 5 ∧ i = .frameExceptionResponse (byteAt F 0) fc (byteAt F 2) (crcField F) := by
  unfold decodeException at h
  split at h
  · next hlen => cases h; exact ⟨hlen, rfl⟩
  · cases h

theorem decodeReadResponse_ok {i : Instr} (h : decodeReadResponse F = .ok i) :
    byteCountOk (byteAt F 2) = true ∧ F.length = 5 + (byteAt F 2).toNat ∧
      i = .frameReadResponse (byteAt F 0) (frameValues F ((byteAt F 2).toNat / 2)) (crcField F) := by
  unfold decodeReadResponse at h
  cases hbc : byteCountOk (byteAt F 2)
  · simp only [hbc, Bool.not_false, if_true] at h
    cases h
  · simp only [hbc, Bool.not_true, Bool.false_eq_true, if_false] at h
    split at h
    · next hlen => cases h; exact ⟨rfl, hlen, rfl⟩
    · cases h

theorem decodeWriteResponse_ok {i : Instr} (h : decodeWriteResponse F = .ok i) :
    F.length = 8 ∧
      i = .frameWriteResponse (byteAt F 0) (be16 (byteAt F 2) (byteAt F 3)) (be16 (byteAt F 4) (byteAt F 5))
        (crcField F) := by
  unfold decodeWriteResponse at h
  split at h
  · next hlen => cases h; exact ⟨hlen, rfl⟩
  · cases h

end Response

/-- An exception response that decodes is the encoding of what it decodes to (R80). -/
theorem encode_of_decodeException {init : Word} {fc : FuncCode} {F : List Byte} {i : Instr}
    (h₁ : byteAt F 1 = fc.byte ||| 0x80#8) (h : decodeException fc F = .ok i) :
    encode init i = .response F ∧ i.WellFormed = true := by
  obtain ⟨hlen, rfl⟩ := decodeException_ok h
  refine ⟨congrArg Encoded.response ?_, rfl⟩
  rw [exceptionResponseBytes, ← h₁, exception_append_crcField hlen]

/-- A read response that decodes is the encoding of what it decodes to (R78). -/
theorem encode_of_decodeReadResponse {init : Word} {F : List Byte} {i : Instr} (h₁ : byteAt F 1 = 0x03#8)
    (h : decodeReadResponse F = .ok i) : encode init i = .response F ∧ i.WellFormed = true := by
  obtain ⟨hbc, hlen, rfl⟩ := decodeReadResponse_ok h
  obtain ⟨hpos, hle, hdouble⟩ := byteCountOk_half hbc
  refine ⟨congrArg Encoded.response ?_, ?_⟩
  · have hcount : BitVec.ofNat 8 (2 * (frameValues F ((byteAt F 2).toNat / 2)).length) = byteAt F 2 := by
      rw [frameValues_length, hdouble, BitVec.ofNat_toNat, BitVec.setWidth_eq]
    rw [readResponseBytes, hcount, ← h₁, readResponse_append_crcField hbc hlen]
  · simp only [Instr.WellFormed, frameValues_length, Bool.and_eq_true, decide_eq_true_eq]
    exact ⟨hpos, hle⟩

/-- A write response that decodes is the encoding of what it decodes to (R79). -/
theorem encode_of_decodeWriteResponse {init : Word} {F : List Byte} {i : Instr} (h₁ : byteAt F 1 = 0x06#8)
    (h : decodeWriteResponse F = .ok i) : encode init i = .response F ∧ i.WellFormed = true := by
  obtain ⟨hlen, rfl⟩ := decodeWriteResponse_ok h
  refine ⟨congrArg Encoded.response ?_, rfl⟩
  rw [writeResponseBytes, ← h₁, requestBody_append_crcField hlen]

theorem encode_of_decodeResponse {init : Word} {F : List Byte} {i : Instr} (h : decodeResponse F = .ok i) :
    encode init i = .response F ∧ i.WellFormed = true := by
  obtain ⟨hlo, hhi⟩ := length_of_decodeResponse h
  rw [decodeResponse_of_length hlo hhi] at h
  split_ifs at h with h83 h86 h03 h06
  · exact encode_of_decodeException (fc := .readHolding) h83 h
  · exact encode_of_decodeException (fc := .writeSingle) h86 h
  · exact encode_of_decodeReadResponse h03 h
  · exact encode_of_decodeWriteResponse h06 h

/-- A request that decodes is the encoding of what it decodes to (R76, R77). -/
theorem encode_of_decodeRequest {init : Word} {F : List Byte} {i : Instr} (h : decodeRequest init F = .ok i) :
    encode init i = .request F ∧ i.WellFormed = true := by
  obtain ⟨_, _, _, operand, rfl, ⟨rfl, hlo, hhi, rfl⟩ | ⟨rfl, rfl⟩⟩ := decodeRequest_ok h
  · refine ⟨rfl, ?_⟩
    simp only [Instr.WellFormed, Bool.and_eq_true, decide_eq_true_eq]
    exact ⟨hlo, hhi⟩
  · exact ⟨rfl, rfl⟩

/-- Settles O16, at each of the three places an encoding stands. -/
theorem decodeThenEncode : Obligations.DecodeThenEncode := by
  intro init e i h
  cases e with
  | command w =>
    cases h
    exact encode_decodeCommand init w
  | request F => exact encode_of_decodeRequest h
  | response F => exact encode_of_decodeResponse h

/-! ### Decoding an encoding -/

/-- The values of a read response stand in its bytes one after another (R78). -/
theorem frameValues_readResponseBytes (slave : Byte) (values : List Word) (crc : Word) :
    frameValues (readResponseBytes slave values crc) values.length = values := by
  refine List.ext_getElem (frameValues_length _ _) fun k hk hk' => ?_
  obtain ⟨hhi, hlo⟩ := byteAt_flatMap_wordBytes values hk'
  have field (j : Nat) (hj : j < 2 * values.length) :
      byteAt (readResponseBytes slave values crc) (3 + j) = byteAt (values.flatMap wordBytes) j := by
    rw [readResponseBytes, List.append_assoc]
    refine (byteAt_append_right [slave, 0x03#8, BitVec.ofNat 8 (2 * values.length)] _ j).trans ?_
    exact byteAt_append_left (by rwa [flatMap_wordBytes_length])
  rw [frameValues_getElem, show 4 + 2 * k = 3 + (2 * k + 1) by omega, field _ (by omega), field _ (by omega), hhi, hlo,
    be16_hi_lo]

theorem decodeResponse_readResponseBytes (slave : Byte) {values : List Word} (crc : Word) (h₁ : 1 ≤ values.length)
    (h₂ : values.length ≤ 125) :
    decodeResponse (readResponseBytes slave values crc) = .ok (.frameReadResponse slave values crc) := by
  have hlen := readResponseBytes_length slave values crc
  have hbc : byteAt (readResponseBytes slave values crc) 2 = BitVec.ofNat 8 (2 * values.length) := rfl
  have h03 : byteAt (readResponseBytes slave values crc) 1 = 0x03#8 := rfl
  have hcrc : crcField (readResponseBytes slave values crc) = crc := crcField_append_crcBytes _ _
  rw [decodeResponse_of_length (by omega) (by omega), h03, if_neg (by decide), if_neg (by decide), if_pos rfl]
  simp only [decodeReadResponse, hbc, byteCountOk_double h₁ h₂, toNat_byteCount h₂, hlen, hcrc, Bool.not_true,
    Bool.false_eq_true, if_false, if_true, Nat.mul_div_cancel_left values.length (show 0 < 2 by omega),
    frameValues_readResponseBytes]
  rfl

theorem decodeResponse_writeResponseBytes (slave : Byte) (addr value crc : Word) :
    decodeResponse (writeResponseBytes slave addr value crc) = .ok (.frameWriteResponse slave addr value crc) := by
  have hlen := writeResponseBytes_length slave addr value crc
  have h06 : byteAt (writeResponseBytes slave addr value crc) 1 = 0x06#8 := rfl
  rw [decodeResponse_of_length (by omega) (by omega), h06, if_neg (by decide), if_neg (by decide), if_neg (by decide),
    if_pos rfl, decodeWriteResponse, if_pos hlen]
  simp [writeResponseBytes, requestBody, wordBytes, crcBytes, crcField, byteAt]

theorem decodeResponse_exceptionResponseBytes (slave : Byte) (fc : FuncCode) (code : Byte) (crc : Word) :
    decodeResponse (exceptionResponseBytes slave fc code crc) = .ok (.frameExceptionResponse slave fc code crc) := by
  have hlen := exceptionResponseBytes_length slave fc code crc
  have hfc : byteAt (exceptionResponseBytes slave fc code crc) 1 = fc.byte ||| 0x80#8 := rfl
  have hcrc : crcField (exceptionResponseBytes slave fc code crc) = crc := crcField_append_crcBytes _ _
  rw [decodeResponse_of_length (by omega) (by omega), hfc]
  cases fc
  · rw [if_pos (by decide), decodeException, if_pos hlen, hcrc]
    rfl
  · rw [if_neg (by decide), if_pos (by decide), decodeException, if_pos hlen, hcrc]
    rfl

/-- Settles O15, row by row of the opcode table: the fixed words decode by computation, the other rows by the lemma about
their encoding. -/
theorem encodeThenDecode : Obligations.EncodeThenDecode := by
  intro init i hwf
  cases i
  case crcByte b => exact congrArg Except.ok (decodeCommand_be16_crcByte b)
  case illegal w => exact congrArg Except.ok (decodeCommand_illegal ((illegalWord_iff w).mp hwf))
  case frameReadRequest slave addr count =>
    simp only [Instr.WellFormed, Bool.and_eq_true, decide_eq_true_eq] at hwf
    exact (decodeRequest_sealFrame ..).trans (by rw [if_pos rfl, if_pos hwf])
  case frameWriteRequest slave addr value => exact decodeRequest_sealFrame ..
  case frameReadResponse slave values crc =>
    simp only [Instr.WellFormed, Bool.and_eq_true, decide_eq_true_eq] at hwf
    exact decodeResponse_readResponseBytes slave crc hwf.1 hwf.2
  case frameWriteResponse => exact decodeResponse_writeResponseBytes ..
  case frameExceptionResponse => exact decodeResponse_exceptionResponseBytes ..
  all_goals rfl

/-- Settles O14: the words and frames are closed, and decoding computes. -/
theorem sampleEncodingsDecode : Obligations.SampleEncodingsDecode := by
  unfold Obligations.SampleEncodingsDecode
  decide +kernel

/-- A presented command word is the host's next write to CMD, which the step performs (R21, log 6). -/
theorem step_presentWord (w : Word) (s : State) : step (presentWord w s) = exec (decodeCommand w) s :=
  (step_write rfl).trans (hostWrite_cmd w s)

/-- Settles O17. -/
theorem presentedWordRunsNext : Obligations.PresentedWordRunsNext := fun s _ _ => ⟨rfl, step_presentWord _ s⟩

end Sys2Proof.Machine

/-! PROOF. The decoders from end to end: DEC_RESP by the end it reaches, what both decoders keep and show, and the response
frames as instructions (42_decode.md sections 1 to 3; log 5). -/

namespace Sys2Proof.Machine

/-! ### DEC_RESP by its end, on any frame (R140 to R144) -/

section DecodeResp

variable {F : List Byte} {s : State}

theorem decodeResp_length (hf : FuncValid s) (h : F.length < 5 ∨ 256 < F.length) :
    decodeResp F s = finish .errLength (clearResults s) :=
  decodeResp_of_stage_error hf (crcStage_length h)

theorem decodeResp_crc (hf : FuncValid s) (h₁ : 5 ≤ F.length) (h₂ : F.length ≤ 256)
    (h : crc16 s.cfg.crcInit (frameBody F) ≠ crcField F) :
    decodeResp F s =
      finish .errCrc { clearResults s with crc := crc16 s.cfg.crcInit (frameBody F), rxCrc := crcField F } :=
  decodeResp_of_stage_error hf (crcStage_crc (s := clearResults s) h₁ h₂ h)

/-- A response with the function code of FUNC = 0x03 takes the read path (R141). -/
theorem selectPath_read (h₀ : byteAt F 0 = s.slave) (h₁ : byteAt F 1 = s.func) (hf : s.func = 0x03#8) :
    selectPath F s = readPath F s := by
  rw [selectPath_data h₀ h₁ (.inl hf), if_pos hf]

/-- A response with the function code of FUNC = 0x06 takes the write path (R141). -/
theorem selectPath_write (h₀ : byteAt F 0 = s.slave) (h₁ : byteAt F 1 = s.func) (hf : s.func = 0x06#8) :
    selectPath F s = writePath F s := by
  rw [selectPath_data h₀ h₁ (.inr hf), if_neg (by rw [hf]; decide)]

/-- A good read response: the values, and nothing in the registers of an echo or an exception (R143). -/
theorem decodeResp_read (hf : s.func = 0x03#8) (h₀ : byteAt F 0 = s.slave) (h₁ : byteAt F 1 = 0x03#8)
    (hbc : byteCountOk (byteAt F 2) = true) (hl : F.length = 5 + (byteAt F 2).toNat)
    (hcrc : crc16 s.cfg.crcInit (frameBody F) = crcField F) :
    decodeResp F s =
      { s with
        crc := crcField F, rxCrc := crcField F, rxSlave := s.slave, rxFunc := 0x03#8,
        plen := BitVec.ofNat 8 (F.length - 4), excCode := 0#8, rxAddr := 0#16, rxOpnd := 0#16,
        values := writeCells [] 0 (frameValues F ((byteAt F 2).toNat / 2)),
        nvalues := BitVec.ofNat 8 ((byteAt F 2).toNat / 2), status := 0x02#8 } := by
  obtain ⟨-, -, hle⟩ := (byteCountOk_iff _).mp hbc
  rw [decodeResp_afterStage (.inl hf) (by omega) (by omega) hcrc,
    selectPath_read (s := afterStage F s) h₀ (h₁.trans hf.symm) hf, readPath_data hbc hl, afterStage, h₀, h₁]
  rfl

/-- A good echo (R144). -/
theorem decodeResp_echo (hf : s.func = 0x06#8) (h₀ : byteAt F 0 = s.slave) (h₁ : byteAt F 1 = 0x06#8)
    (hl : F.length = 8) (hcrc : crc16 s.cfg.crcInit (frameBody F) = crcField F) :
    decodeResp F s =
      { s with
        crc := crcField F, rxCrc := crcField F, rxSlave := s.slave, rxFunc := 0x06#8, plen := 4#8, excCode := 0#8,
        rxAddr := be16 (byteAt F 2) (byteAt F 3), rxOpnd := be16 (byteAt F 4) (byteAt F 5),
        values := writeCell [] 0 (be16 (byteAt F 4) (byteAt F 5)), nvalues := 1#8, status := 0x02#8 } := by
  rw [decodeResp_afterStage (.inr hf) (by omega) (by omega) hcrc,
    selectPath_write (s := afterStage F s) h₀ (h₁.trans hf.symm) hf, writePath_data hl, afterStage, h₀, h₁, hl]
  rfl

/-- A good exception response (R142). -/
theorem decodeResp_exception (hf : FuncValid s) (h₀ : byteAt F 0 = s.slave) (h₁ : byteAt F 1 = s.func ||| 0x80#8)
    (hl : F.length = 5) (hcrc : crc16 s.cfg.crcInit (frameBody F) = crcField F) :
    decodeResp F s =
      { s with
        crc := crcField F, rxCrc := crcField F, rxSlave := s.slave, rxFunc := s.func ||| 0x80#8, plen := 1#8,
        excCode := byteAt F 2, rxAddr := 0#16, rxOpnd := 0#16, values := [], nvalues := 0#8, status := 0x03#8,
        errflags := s.errflags ||| 0x80#8 } := by
  rw [decodeResp_afterStage hf (by omega) (by omega) hcrc, selectPath_exception (s := afterStage F s) h₀ h₁,
    (exceptionPathReportsTheCode F _).2 hl, afterStage, h₀, h₁, hl]
  rfl

end DecodeResp

/-! ### The received frame (R141) -/

/-- Settles O35: the received frame is a good read response. -/
theorem decRespDeliversReadValues : Obligations.DecRespDeliversReadValues := by
  intro s n bc hf h₀ h₁ hne heven hle hn hcrc
  have hlen : (received s).length = n := received_length s
  have byte (i : Nat) (hi : i < n) : byteAt (received s) i = readCell s.rxbuf i := byteAt_received s i hi
  have hbc : byteAt (received s) 2 = bc := byte 2 (by omega)
  have hok : byteCountOk bc = true := (byteCountOk_iff bc).mpr ⟨hne, heven, hle⟩
  have hend := decodeResp_read hf ((byte 0 (by omega)).trans h₀) ((byte 1 (by omega)).trans h₁) (by rwa [hbc])
    (by rw [hlen, hbc, hn]) hcrc
  rw [hbc, hlen] at hend
  refine ⟨_, congrArg Host.Outcome.next hend, fun k hk => ?_, fun k hk => ?_, rfl⟩
  · obtain ⟨-, -, hhalf⟩ := byteCountOk_half hok
    refine (readCell_writeCells_frameValues ..).trans ((if_pos hk).trans ?_)
    rw [byte _ (by omega), byte _ (by omega)]
  · exact (readCell_writeCells_frameValues ..).trans (if_neg (Nat.not_lt.mpr hk))

/-- Settles O36: the received frame is a good echo, or a good exception response. -/
theorem decRespReportsEchoAndException : Obligations.DecRespReportsEchoAndException := by
  intro s h₀ hcrc
  have byte (i : Nat) (hi : i < s.rxlen.toNat) : byteAt (received s) i = readCell s.rxbuf i := byteAt_received s i hi
  refine ⟨fun hf h₁ hn => ?echo, fun hf h₁ hn => ?exception⟩
  case echo =>
    have hlen : s.rxlen.toNat = 8 := by rw [hn]; rfl
    have hend := decodeResp_echo hf ((byte 0 (by omega)).trans h₀) ((byte 1 (by omega)).trans h₁)
      ((received_length s).trans hlen) hcrc
    rw [byte 2 (by omega), byte 3 (by omega), byte 4 (by omega), byte 5 (by omega)] at hend
    exact ⟨_, congrArg Host.Outcome.next hend, readCell_writeCell_same _ _ _,
      fun k hk => (readCell_writeCell _ _ _ _).trans (if_neg hk), rfl⟩
  case exception =>
    have hlen : s.rxlen.toNat = 5 := by rw [hn]; rfl
    have hend := decodeResp_exception hf ((byte 0 (by omega)).trans h₀) ((byte 1 (by omega)).trans h₁)
      ((received_length s).trans hlen) hcrc
    rw [byte 2 (by omega)] at hend
    exact congrArg Host.Outcome.next hend

/-- Settles O37: each error by the check that reports it. -/
theorem decRespErrorsLeaveTheirRecord : Obligations.DecRespErrorsLeaveTheirRecord := by
  intro s n F bc reached
  have hlen : F.length = n := received_length s
  have passed (hf : FuncValid s) (h₁ : 5 ≤ n) (h₂ : n ≤ 256) (hcrc : CrcGood s) :
      exec .decResp s = .next (selectPath F (passedCrcStage s)) := by
    rw [exec_decResp, decodeResp_afterStage hf (by rwa [hlen]) (by rwa [hlen]) hcrc, afterStage_received]
  refine ⟨fun hf => ?operand, fun hf hl => ?length, fun hf h₁ h₂ hbad => ?crc, fun hf h₁ h₂ hgood hs => ?slave,
    fun ⟨hf, h₁, h₂, hgood, hs⟩ hne hnexc => ?function, fun ⟨hf, h₁, h₂, hgood, hs⟩ hfn h03 hbc => ?byteCount,
    fun ⟨hf, h₁, h₂, hgood, hs⟩ hpath => ?pathLength⟩
  case operand =>
    rw [exec_decResp, decodeResp_of_not_funcValid hf]
    rfl
  case length =>
    rw [exec_decResp, decodeResp_length hf (by rwa [hlen])]
    rfl
  case crc =>
    rw [exec_decResp, decodeResp_crc hf (by rwa [hlen]) (by rwa [hlen]) hbad]
    rfl
  case slave =>
    rw [passed hf h₁ h₂ hgood, selectPath_slave (s := passedCrcStage s) hs]
    rfl
  case function =>
    rw [passed hf h₁ h₂ hgood, selectPath_function (s := passedCrcStage s) hs hnexc hne]
    rfl
  case byteCount =>
    rw [passed hf h₁ h₂ hgood, selectPath_read (s := passedCrcStage s) hs hfn h03,
      readPath_byteCount ((byteCountOk_eq_false_iff bc).mpr hbc)]
    rfl
  case pathLength =>
    rw [passed hf h₁ h₂ hgood]
    rcases hpath with ⟨hexc, h5⟩ | ⟨hfn, h03, hne, heven, hle, hbc⟩ | ⟨hfn, h06, h8⟩
    · rw [selectPath_exception (s := passedCrcStage s) hs hexc, (exceptionPathReportsTheCode F _).1 (by rwa [hlen])]
      rfl
    · rw [selectPath_read (s := passedCrcStage s) hs hfn h03,
        readPath_length ((byteCountOk_iff bc).mpr ⟨hne, heven, hle⟩) (by rwa [hlen])]
      rfl
    · rw [selectPath_write (s := passedCrcStage s) hs hfn h06, (writePathReportsTheEcho F _).1 (by rwa [hlen])]
      rfl

/-! ### What DEC_RESP can do, said once (R141 to R144) -/

/-- The four kinds of end of DEC_RESP on the frame `F`: an error, with results as the CRC stage left them and no value; an
exception with its code; the values of a read response; the echo of a write response. -/
inductive RespEnd (F : List Byte) (s : State) : State → Prop
  | error (c : Status) (crc rxCrc : Word) (rxSlave rxFunc plen : Byte)
      (code : c.code = 0x11#8 ∨ (0x12 ≤ c.code.toNat ∧ c.code.toNat ≤ 0x16)) (plenLe : plen.toNat ≤ 252) :
      RespEnd F s (finish c
        { clearResults s with crc := crc, rxCrc := rxCrc, rxSlave := rxSlave, rxFunc := rxFunc, plen := plen })
  | exception (length : F.length = 5) :
      RespEnd F s (finish .okException { afterStage F s with excCode := byteAt F 2 })
  | read (byteCount : byteCountOk (byteAt F 2) = true) (length : F.length = 5 + (byteAt F 2).toNat) :
      RespEnd F s
        { afterStage F s with
          values := writeCells [] 0 (frameValues F ((byteAt F 2).toNat / 2))
          nvalues := BitVec.ofNat 8 ((byteAt F 2).toNat / 2), status := 0x02#8 }
  | write (length : F.length = 8) :
      RespEnd F s
        { afterStage F s with
          rxAddr := be16 (byteAt F 2) (byteAt F 3), rxOpnd := be16 (byteAt F 4) (byteAt F 5)
          values := writeCell [] 0 (be16 (byteAt F 4) (byteAt F 5)), nvalues := 1#8, status := 0x02#8 }

theorem afterStage_plen_toNat_le {F : List Byte} (s : State) (h : F.length ≤ 256) :
    (afterStage F s).plen.toNat ≤ 252 := by
  simp only [afterStage, BitVec.toNat_ofNat]
  omega

/-- An error past the CRC stage. -/
theorem RespEnd.afterStage_error {F : List Byte} (s : State) (h : F.length ≤ 256) (c : Status)
    (code : c.code = 0x11#8 ∨ (0x12 ≤ c.code.toNat ∧ c.code.toNat ≤ 0x16)) :
    RespEnd F s (finish c (afterStage F s)) :=
  .error c _ _ _ _ _ code (afterStage_plen_toNat_le s h)

/-- An error of the operand check or the CRC stage. -/
theorem RespEnd.stage_error {F : List Byte} (s : State) (crc rxCrc : Word) (c : Status)
    (code : c.code = 0x11#8 ∨ (0x12 ≤ c.code.toNat ∧ c.code.toNat ≤ 0x16)) :
    RespEnd F s (finish c { clearResults s with crc := crc, rxCrc := rxCrc }) :=
  .error c crc rxCrc 0#8 0#8 0#8 code (by decide)

theorem readPath_end {F : List Byte} (s : State) (h : F.length ≤ 256) : RespEnd F s (readPath F (afterStage F s)) := by
  cases hbc : byteCountOk (byteAt F 2)
  · rw [readPath_byteCount hbc]
    exact .afterStage_error s h .errByteCount (by decide)
  · by_cases hl : F.length = 5 + (byteAt F 2).toNat
    · rw [readPath_data hbc hl]
      exact .read hbc hl
    · rw [readPath_length hbc hl]
      exact .afterStage_error s h .errLength (by decide)

theorem writePath_end {F : List Byte} (s : State) (h : F.length ≤ 256) : RespEnd F s (writePath F (afterStage F s)) := by
  by_cases hl : F.length = 8
  · rw [writePath_data hl]
    exact .write hl
  · rw [writePath, if_pos hl]
    exact .afterStage_error s h .errLength (by decide)

theorem exceptionPath_end {F : List Byte} (s : State) (h : F.length ≤ 256) :
    RespEnd F s (exceptionPath F (afterStage F s)) := by
  by_cases hl : F.length = 5
  · rw [exceptionPath, if_neg (not_not_intro hl)]
    exact .exception hl
  · rw [exceptionPath, if_pos hl]
    exact .afterStage_error s h .errLength (by decide)

theorem decodeResp_end (F : List Byte) (s : State) : RespEnd F s (decodeResp F s) := by
  by_cases hf : FuncValid s
  case neg =>
    rw [decodeResp_of_not_funcValid hf]
    exact .stage_error s s.crc 0#16 .errOperand (by decide)
  by_cases hl : F.length < 5 ∨ 256 < F.length
  · rw [decodeResp_length hf hl]
    exact .stage_error s s.crc 0#16 .errLength (by decide)
  have h₁ : 5 ≤ F.length := by omega
  have h₂ : F.length ≤ 256 := by omega
  by_cases hcrc : crc16 s.cfg.crcInit (frameBody F) = crcField F
  · rw [decodeResp_afterStage hf h₁ h₂ hcrc, selectPath_afterStage]
    split_ifs
    · exact .afterStage_error s h₂ .errSlave (by decide)
    · exact exceptionPath_end s h₂
    · exact .afterStage_error s h₂ .errFunction (by decide)
    · exact readPath_end s h₂
    · exact writePath_end s h₂
  · rw [decodeResp_crc hf h₁ h₂ hcrc]
    exact .stage_error s _ _ .errCrc (by decide)

/-! ### What a decode shows (R34, R41, R145) -/

/-- After a read response `n` values stand in VALUES and the other entries are 0. -/
theorem readCell_frameValues_beyond (F : List Byte) {n k : Nat} (h : n ≤ k) :
    readCell (writeCells ([] : Cells 16) 0 (frameValues F n)) k = 0#16 :=
  (readCell_writeCells_frameValues ..).trans (if_neg (Nat.not_lt.mpr h))

/-- `t` shows values only with OK_DATA, as many as NVALUES says, and an exception code only with OK_EXCEPTION. -/
def ShowsOnlyItsResult (t : State) : Prop :=
  (t.status ≠ 0x02#8 → t.nvalues = 0#8 ∧ ∀ k, readCell t.values k = 0#16) ∧
  (∀ k, t.nvalues.toNat ≤ k → readCell t.values k = 0#16) ∧
  (t.status ≠ 0x03#8 → t.excCode = 0#8)

theorem RespEnd.showsOnlyItsResult {F : List Byte} {s t : State} (h : RespEnd F s t) : ShowsOnlyItsResult t := by
  cases h with
  | error => exact ⟨fun _ => ⟨rfl, fun _ => rfl⟩, fun _ _ => rfl, fun _ => rfl⟩
  | exception => exact ⟨fun _ => ⟨rfl, fun _ => rfl⟩, fun _ _ => rfl, fun h => absurd rfl h⟩
  | read hbc =>
    obtain ⟨-, hle, -⟩ := byteCountOk_half hbc
    refine ⟨fun h => absurd rfl h, fun k hk => readCell_frameValues_beyond F ?_, fun _ => rfl⟩
    rwa [BitVec.toNat_ofNat, Nat.mod_eq_of_lt (by omega)] at hk
  | write =>
    refine ⟨fun h => absurd rfl h, fun k hk => ?_, fun _ => rfl⟩
    have hne : k ≠ 0 := Nat.one_le_iff_ne_zero.mp hk
    exact (readCell_writeCell _ _ _ _).trans (if_neg hne)

/-- Settles O43: DEC_RESP by its ends; DEC_FRAME shows neither value nor exception code. -/
theorem failedDecodeShowsNoValue : Obligations.FailedDecodeShowsNoValue := by
  rintro i s t (rfl | rfl) h
  · cases h
    exact (decodeResp_end (received s) s).showsOnlyItsResult
  · cases h
    obtain ⟨_, _, _, _, _, _, _, _, -, e⟩ := decodeAnyFrame_frame (received s) s
    rw [e]
    exact ⟨fun _ => ⟨rfl, fun _ => rfl⟩, fun _ _ => rfl, fun _ => rfl⟩

/-- The error codes 0x12 to 0x16 stand for a protocol error (R145). -/
theorem respResult_protocolError {t : State} (h₁ : 0x12 ≤ t.status.toNat) (h₂ : t.status.toNat ≤ 0x16) :
    respResult t = some .protocolError := by
  have code : t.status = BitVec.ofNat 8 t.status.toNat := by simp
  unfold respResult
  interval_cases t.status.toNat <;> rw [code] <;> rfl

theorem RespEnd.hasResultType {F : List Byte} {s t : State} (h : RespEnd F s t) :
    (respResult t = some .decodedResponse ∧ t.status = 0x02#8) ∨
    (respResult t = some (.exceptionResponse (byteAt F 2)) ∧ F.length = 5 ∧ t.status = 0x03#8) ∨
    (respResult t = some .operandFault ∧ t.status = 0x11#8) ∨
    (respResult t = some .protocolError ∧ 0x12 ≤ t.status.toNat ∧ t.status.toNat ≤ 0x16) := by
  cases h with
  | error c _ _ _ _ _ code =>
    rcases code with operand | ⟨hlo, hhi⟩
    · refine .inr (.inr (.inl ⟨?_, operand⟩))
      rw [respResult, finish_status, operand]
      rfl
    · exact .inr (.inr (.inr ⟨respResult_protocolError hlo hhi, hlo, hhi⟩))
  | exception length => exact .inr (.inl ⟨rfl, length, rfl⟩)
  | read => exact .inl ⟨rfl, rfl⟩
  | write => exact .inl ⟨rfl, rfl⟩

/-- Settles O44, by the ends of DEC_RESP; an exception's code is byte 2 of its five. -/
theorem decRespHasAResultType : Obligations.DecRespHasAResultType := by
  intro s t h
  cases h
  refine (decodeResp_end (received s) s).hasResultType.imp_right (Or.imp_left fun ⟨hresult, hlen, hstatus⟩ => ?_)
  rw [received_length] at hlen
  rw [← byteAt_received s 2 (by omega)]
  exact ⟨hresult, hstatus⟩

/-! ### What the decoders leave alone -/

/-- Settles O41: neither decoder's frame reaches an operand register or a buffer. -/
theorem decodersKeepOperandsAndBuffers : Obligations.DecodersKeepOperandsAndBuffers := by
  rintro i s t (rfl | rfl) h
  · cases h
    obtain ⟨_, _, _, _, _, _, _, _, _, _, _, -, e⟩ := decodeResp_frame (received s) s
    rw [e]
    exact ⟨rfl, rfl, rfl, rfl, rfl, rfl, fun _ => rfl, fun _ => rfl⟩
  · cases h
    obtain ⟨_, _, _, _, _, _, _, _, -, e⟩ := decodeAnyFrame_frame (received s) s
    rw [e]
    exact ⟨rfl, rfl, rfl, rfl, rfl, rfl, fun _ => rfl, fun _ => rfl⟩

/-- DEC_FRAME's meaning does not look at SLAVE and FUNC: at each end it commutes with setting them (R150). -/
theorem decodeAnyFrame_slave_func (F : List Byte) (s : State) (x y : Byte) :
    decodeAnyFrame F { s with slave := x, func := y } = { decodeAnyFrame F s with slave := x, func := y } := by
  by_cases hl : F.length < 4 ∨ 256 < F.length
  · rw [decodeAnyFrame_length hl, decodeAnyFrame_length hl]
    rfl
  have h₁ : 4 ≤ F.length := by omega
  have h₂ : F.length ≤ 256 := by omega
  by_cases hcrc : crc16 s.cfg.crcInit (frameBody F) = crcField F
  · rw [decodeAnyFrame_afterStage h₁ h₂ hcrc,
      decodeAnyFrame_afterStage (s := { s with slave := x, func := y }) h₁ h₂ hcrc, splitPayload_eq, splitPayload_eq]
    rfl
  · rw [decodeAnyFrame_crc h₁ h₂ hcrc, decodeAnyFrame_crc (s := { s with slave := x, func := y }) h₁ h₂ hcrc]
    rfl

/-- Settles O40. -/
theorem decFrameIgnoresSlaveAndFunc : Obligations.DecFrameIgnoresSlaveAndFunc := by
  intro s t x y h
  obtain ⟨hslave, hfunc, -⟩ := decodersKeepOperandsAndBuffers .decFrame s t (.inr rfl) h
  cases h
  exact ⟨congrArg Host.Outcome.next (decodeAnyFrame_slave_func (received s) s x y), hslave, hfunc⟩

/-! ### Response frames as instructions (log 5) -/

/-- Running a response frame is DEC_RESP on its bytes. -/
theorem exec_of_encode_response {init : Word} {i : Instr} {F : List Byte} (h : encode init i = .response F) (s : State) :
    exec i s = .next (decodeResp F s) := by
  cases i <;> cases h
  all_goals rfl

/-- Settles O45: the frame's bytes are a good read response, whose values are the frame's. -/
theorem readResponseFrameGivesItsValues : Obligations.ReadResponseFrameGivesItsValues := by
  intro slave values s h₁ h₂ hf hs
  subst hs
  intro crc
  have hlen := readResponseBytes_length s.slave values crc
  have hbc : byteAt (readResponseBytes s.slave values crc) 2 = BitVec.ofNat 8 (2 * values.length) := rfl
  have hcount : (BitVec.ofNat 8 (2 * values.length)).toNat = 2 * values.length := toNat_byteCount h₂
  have hfield : crcField (readResponseBytes s.slave values crc) = crc := crcField_append_crcBytes _ _
  have hbody : frameBody (readResponseBytes s.slave values crc) = frameBody (readResponseBytes s.slave values 0#16) :=
    (frameBody_append_crcBytes _ _).trans (frameBody_append_crcBytes _ _).symm
  have hend := decodeResp_read (F := readResponseBytes s.slave values crc) hf rfl rfl
    (by rw [hbc]; exact byteCountOk_double h₁ h₂) (by rw [hlen, hbc, hcount]) (by rw [hbody, hfield])
  rw [hbc, hcount, Nat.mul_div_cancel_left _ (by omega), frameValues_readResponseBytes, hfield, hlen,
    show 5 + 2 * values.length - 4 = 2 * values.length + 1 by omega] at hend
  refine ⟨_, congrArg Host.Outcome.next hend, fun k => ?_, rfl⟩
  refine (readCell_writeCells _ _ _ _).trans ?_
  rw [Nat.zero_add, Nat.sub_zero]
  by_cases hk : k < values.length
  · exact if_pos ⟨Nat.zero_le k, hk⟩
  · rw [if_neg fun h => hk h.2, List.getD_eq_default _ _ (Nat.not_lt.mp hk)]
    rfl

/-- Settles O46: the frame's bytes are a good echo, or a good exception response. -/
theorem echoAndExceptionFramesAreReported : Obligations.EchoAndExceptionFramesAreReported := by
  refine ⟨?echo, ?exception⟩
  case echo =>
    intro slave addr value s hf hs
    subst hs
    intro crc
    have hbody : frameBody (writeResponseBytes s.slave addr value crc) = requestBody 0x06#8 s.slave addr value :=
      frameBody_append_crcBytes _ _
    have hfield : crcField (writeResponseBytes s.slave addr value crc) = crc := crcField_append_crcBytes _ _
    have haddr : be16 (byteAt (writeResponseBytes s.slave addr value crc) 2)
      (byteAt (writeResponseBytes s.slave addr value crc) 3) = addr := be16_hi_lo addr
    have hvalue : be16 (byteAt (writeResponseBytes s.slave addr value crc) 4)
      (byteAt (writeResponseBytes s.slave addr value crc) 5) = value := be16_hi_lo value
    have hend := decodeResp_echo (F := writeResponseBytes s.slave addr value crc) hf rfl rfl rfl
      (by rw [hbody, hfield])
    rw [haddr, hvalue, hfield] at hend
    exact ⟨_, congrArg Host.Outcome.next hend, readCell_writeCell_same _ _ _,
      fun k hk => (readCell_writeCell _ _ _ _).trans (if_neg hk), rfl⟩
  case exception =>
    intro slave fc code s hf hs
    subst hs
    have hvalid : FuncValid s := by rw [FuncValid, hf]; cases fc <;> decide
    rw [← hf]
    intro crc
    have hbody : frameBody (exceptionResponseBytes s.slave fc code crc) = [s.slave, s.func ||| 0x80#8, code] := by
      rw [hf]
      exact frameBody_append_crcBytes _ _
    have hfield : crcField (exceptionResponseBytes s.slave fc code crc) = crc := crcField_append_crcBytes _ _
    have hend := decodeResp_exception (F := exceptionResponseBytes s.slave fc code crc) hvalid rfl
      (by rw [hf]; rfl) rfl (by rw [hbody, hfield])
    rw [hfield] at hend
    exact congrArg Host.Outcome.next hend

/-- Settles O47: a well-formed response frame has a length the CRC stage takes, and its CRC is what the stage rejects. -/
theorem badCrcResponseFrameIsReported : Obligations.BadCrcResponseFrameIsReported := by
  intro i F s t henc hwf hf hbad h
  have hdec := encodeThenDecode s.cfg.crcInit i hwf
  rw [henc] at hdec
  obtain ⟨h₁, h₂⟩ := length_of_decodeResponse hdec
  rw [exec_of_encode_response henc, decodeResp_crc hf h₁ h₂ hbad] at h
  cases h
  rfl

/-- Settles O48: a received frame that decodes is the encoding of what it decodes to. -/
theorem decRespRunsTheReceivedFrame : Obligations.DecRespRunsTheReceivedFrame := by
  intro s i rest hp h
  obtain ⟨henc, -⟩ := encode_of_decodeResponse (init := s.cfg.crcInit) h
  rw [step_write hp, hostWrite_cmd, exec_of_encode_response henc]
  rfl

end Sys2Proof.Machine

/-! PROOF. The algebra of the CRC: linearity, injectivity, the residue, CRC_BYTE and streaming (40_crc.md
sections 2 and 3). -/

namespace Sys2Proof.Machine

/-! ### Linearity -/

theorem crcRound_xor (c₁ c₂ : Word) : crcRound (c₁ ^^^ c₂) = crcRound c₁ ^^^ crcRound c₂ := by
  simp only [crcRound, BitVec.getLsbD_xor, BitVec.ushiftRight_xor_distrib]
  cases c₁.getLsbD 0 <;> cases c₂.getLsbD 0
  · rfl
  · exact BitVec.xor_assoc _ _ _
  · show c₁ >>> 1 ^^^ c₂ >>> 1 ^^^ crcPoly = c₁ >>> 1 ^^^ crcPoly ^^^ c₂ >>> 1
    ac_rfl
  · show c₁ >>> 1 ^^^ c₂ >>> 1 = c₁ >>> 1 ^^^ crcPoly ^^^ (c₂ >>> 1 ^^^ crcPoly)
    calc c₁ >>> 1 ^^^ c₂ >>> 1 = c₁ >>> 1 ^^^ c₂ >>> 1 ^^^ (crcPoly ^^^ crcPoly) := by
          rw [BitVec.xor_self, BitVec.xor_zero]
      _ = c₁ >>> 1 ^^^ crcPoly ^^^ (c₂ >>> 1 ^^^ crcPoly) := by ac_rfl

theorem crcRounds_xor (n : Nat) (c₁ c₂ : Word) : crcRounds n (c₁ ^^^ c₂) = crcRounds n c₁ ^^^ crcRounds n c₂ := by
  induction n generalizing c₁ c₂ with
  | zero => rfl
  | succ n ih => rw [crcRounds, crcRound_xor, ih]; rfl

/-- Settles O23, from the linearity of one round. -/
theorem crcStepIsLinear : Obligations.CrcStepIsLinear := by
  intro c₁ c₂ b₁ b₂
  rw [crcStep, crcStep, crcStep, ← crcRounds_xor, BitVec.setWidth_xor]
  congr 1
  ac_rfl

/-! ### Injectivity -/

/-- A round that shifts out a zero bit just shifts (R100). -/
theorem crcRound_of_even {c : Word} (h : c.getLsbD 0 = false) : crcRound c = c >>> 1 := by
  rw [crcRound, h, if_neg Bool.false_ne_true]

/-- A round loses nothing: the shifted-out bit shows at bit 15, which the polynomial has. -/
theorem crcRound_eq_zero {c : Word} (h : crcRound c = 0#16) : c = 0#16 := by
  have bit (i : Nat) : (crcRound c).getLsbD i = false := by rw [h]; exact BitVec.getLsbD_zero
  cases h0 : c.getLsbD 0
  case true =>
    have top := bit 15
    simp [crcRound, h0, crcPoly] at top
  case false =>
    rw [crcRound_of_even h0] at bit
    refine BitVec.eq_of_getLsbD_eq fun i _ => ?_
    cases i with
    | zero => simpa using h0
    | succ i => simpa [Nat.add_comm 1 i] using bit i

theorem crcRounds_eq_zero {n : Nat} {c : Word} (h : crcRounds n c = 0#16) : c = 0#16 := by
  induction n generalizing c with
  | zero => exact h
  | succ n ih => exact crcRound_eq_zero (ih h)

theorem crcRounds_injective (n : Nat) : Function.Injective (crcRounds n) := by
  intro c₁ c₂ h
  refine BitVec.xor_eq_zero_iff.mp (crcRounds_eq_zero (n := n) ?_)
  rw [crcRounds_xor, h, BitVec.xor_self]

/-- `crcStep` is injective in the CRC. -/
theorem crcStep_injective_crc {c₁ c₂ : Word} {b : Byte} (h : crcStep c₁ b = crcStep c₂ b) : c₁ = c₂ :=
  (BitVec.xor_left_inj _).mp (crcRounds_injective 8 h)

/-- `crcStep` is injective in its byte (R103). -/
theorem crcStep_injective_byte {c : Word} {b₁ b₂ : Byte} (h : crcStep c b₁ = crcStep c b₂) : b₁ = b₂ := by
  have hwide : b₁.setWidth 16 = b₂.setWidth 16 := (BitVec.xor_right_inj _).mp (crcRounds_injective 8 h)
  simpa using congrArg (BitVec.setWidth 8) hwide

/-- The bytes that follow keep two CRCs apart. -/
theorem crc16_injective_init {c₁ c₂ : Word} (s : List Byte) (h : crc16 c₁ s = crc16 c₂ s) : c₁ = c₂ := by
  induction s generalizing c₁ c₂ with
  | nil => exact h
  | cons b s ih => exact crcStep_injective_crc (ih h)

/-- Settles O24: the changed byte changes the CRC, and the bytes after it keep the difference. -/
theorem singleByteChangeChangesCrc : Obligations.SingleByteChangeChangesCrc := by
  intro init before after b b' hne h
  rw [crc16_append, crc16_append] at h
  exact hne (crcStep_injective_byte (crc16_injective_init after h))

/-! ### The residue (R101) -/

/-- Rounds that meet only zero bits just shift. -/
theorem crcRounds_of_low_zero {n : Nat} {c : Word} (h : ∀ i < n, c.getLsbD i = false) : crcRounds n c = c >>> n := by
  induction n generalizing c with
  | zero => simp [crcRounds]
  | succ n ih =>
    have shifted : ∀ i < n, (c >>> 1).getLsbD i = false := fun i hi => by
      rw [BitVec.getLsbD_ushiftRight]
      exact h _ (by omega)
    rw [crcRounds, crcRound_of_even (h 0 (by omega)), ih shifted, ← BitVec.shiftRight_add, Nat.add_comm]

/-- Folding the low byte of the CRC into it leaves the high byte; folding that leaves 0. -/
theorem crc16_crcBytes_self (c : Word) : crc16 c (crcBytes c) = 0x0000#16 := by
  have low : crcStep c (loByte c) = (hiByte c).setWidth 16 := by
    rw [crcStep, crcRounds_of_low_zero fun i hi => by simp [loByte, hi, show i < 16 by omega]]
    ext i hi
    by_cases h8 : i < 8
    · simp [loByte, hiByte, h8, show 8 + i < 16 by omega]
    · simp [loByte, hiByte, h8, BitVec.getLsbD_of_ge c (8 + i) (by omega)]
  show crcStep (crcStep c (loByte c)) (hiByte c) = 0x0000#16
  rw [low, crcStep, BitVec.xor_self]
  rfl

/-- Settles O22: the CRC field is the one continuation of the body that leaves 0. -/
theorem residueIsZeroExactlyForGoodFrames : Obligations.ResidueIsZeroExactlyForGoodFrames := by
  have residue (init : Word) (B : List Byte) (f : Word) :
      crc16 init (B ++ crcBytes f) = 0x0000#16 ↔ crc16 init B = f := by
    rw [crc16_append, ← crc16_crcBytes_self f]
    exact ⟨crc16_injective_init _, congrArg (crc16 · (crcBytes f))⟩
  refine ⟨fun init B => (residue init B _).mpr rfl, fun init F hlen => ?_⟩
  rw [← residue init (frameBody F), frameBody_append_crcField F hlen]

/-! ### CRC_BYTE and streaming (R103) -/

/-- CRC_BYTE is the fold of its byte, finished with OK. -/
theorem exec_crcByte (b : Byte) (s : State) :
    exec (.crcByte b) s = .next { s with crc := crcStep s.crc b, status := 0x01#8 } :=
  congrArg Host.Outcome.next (finish_of_flag_zero (c := .ok) rfl _)

/-- Settles O20. -/
theorem crcByteFoldsItsByte : Obligations.CrcByteFoldsItsByte := fun b s =>
  ⟨decodeCommand_be16_crcByte b, exec_crcByte b s, by decide, fun _ _ => crcStep_injective_byte⟩

theorem execAll_cons {i : Instr} {s t : State} (h : exec i s = .next t) (is : List Instr) :
    execAll (i :: is) s = execAll is t := by
  simp only [execAll, h]

theorem execAll_crcByte (bytes : List Byte) (s : State) (h : s.status = 0x01#8) :
    execAll (bytes.map .crcByte) s = .next { s with crc := crc16 s.crc bytes } := by
  induction bytes generalizing s with
  | nil => rfl
  | cons b bytes ih =>
    rw [List.map_cons, execAll_cons (exec_crcByte b s), ih _ rfl, ← h]
    rfl

/-- Settles O21: CRC_INIT starts the fold of R101, each CRC_BYTE is one step of it. -/
theorem streamingEqualsBatch : Obligations.StreamingEqualsBatch := by
  intro s bytes
  rw [execAll_cons ((exec_crcInit s).trans (congrArg _ (finish_of_flag_zero rfl _))), execAll_crcByte bytes _ rfl]
  rfl

end Sys2Proof.Machine

/-! PROOF. Round trips through LOOP, and corrupted frames (42_decode.md section 4, 40_crc.md section 3). -/

namespace Sys2Proof.Machine

/-! ### ENC_READ's two ends by its count (R120) -/

theorem buildReadRequest_of_count {count : Word} (h₁ : 1 ≤ count.toNat) (h₂ : count.toNat ≤ 125) (slave : Byte)
    (addr : Word) (s : State) : buildReadRequest slave addr count s = buildRequest 0x03#8 slave addr count s := by
  rcases buildReadRequest_cases slave addr count s with ⟨hbad, _⟩ | ⟨_, _, h⟩
  · omega
  · exact h

theorem buildReadRequest_of_bad_count {count : Word} (h : count.toNat < 1 ∨ 125 < count.toNat) (slave : Byte)
    (addr : Word) (s : State) : buildReadRequest slave addr count s = finish .errOperand { s with txlen := 0#9 } := by
  rcases buildReadRequest_cases slave addr count s with ⟨_, h⟩ | ⟨_, _, _⟩
  · exact h
  · omega

/-! ### A request looped back (R151) -/

/-- The state after an encoder command and LOOP: the request built, then copied into the receive buffer. -/
def loopedRequest (fc : Byte) (s : State) : State := loopBack (buildRequest fc s.slave s.addr s.opnd s)

/-- The bytes of the request that the operand registers of `s` name. -/
def requestFrame (fc : Byte) (s : State) : List Byte := sealFrame s.cfg.crcInit (requestBody fc s.slave s.addr s.opnd)

theorem requestFrame_length (fc : Byte) (s : State) : (requestFrame fc s).length = 8 := rfl

/-- What is received after the loop is the request itself. -/
theorem received_loopedRequest (fc : Byte) (s : State) : received (loopedRequest fc s) = requestFrame fc s := by
  have hrx : (loopedRequest fc s).rxlen.toNat = 8 := rfl
  refine byteAt_ext ((received_length _).trans hrx) fun i hi => ?_
  rw [received_length, hrx] at hi
  have htx : (buildRequest fc s.slave s.addr s.opnd s).txlen.toNat = 8 := rfl
  rw [byteAt_received _ _ (by rwa [hrx]), loopedRequest, loopBack_rxbuf _ (by omega), if_pos (by rwa [htx]),
    buildRequest_txbuf, if_pos hi, requestFrame]

/-- Its CRC is right. -/
theorem crc_requestFrame (fc : Byte) (s : State) :
    crc16 s.cfg.crcInit (frameBody (requestFrame fc s)) = crcField (requestFrame fc s) := by
  rw [requestFrame, frameBody_sealFrame, crcField_sealFrame]

/-- The 16-bit fields of a request, read back from its bytes. -/
theorem requestFrame_fields (fc : Byte) (s : State) :
    be16 (byteAt (requestFrame fc s) 2) (byteAt (requestFrame fc s) 3) = s.addr ∧
    be16 (byteAt (requestFrame fc s) 4) (byteAt (requestFrame fc s) 5) = s.opnd :=
  ⟨be16_hi_lo s.addr, be16_hi_lo s.opnd⟩

theorem execAll_encRead_loop {s : State} (h₁ : 1 ≤ s.opnd.toNat) (h₂ : s.opnd.toNat ≤ 125) (is : List Instr) :
    execAll (.encRead :: .loop :: is) s = execAll is (loopedRequest 0x03#8 s) := by
  rw [execAll_cons (exec_encRead s), buildReadRequest_of_count h₁ h₂, execAll_cons (exec_loop _), loopedRequest]

theorem execAll_encWrite_loop (s : State) (is : List Instr) :
    execAll (.encWrite :: .loop :: is) s = execAll is (loopedRequest 0x06#8 s) := by
  rw [execAll_cons (exec_encWrite s), execAll_cons (exec_loop _), loopedRequest]

/-- DEC_FRAME splits a looped request back into its fields. -/
theorem decFrame_loopedRequest (fc : Byte) (s : State) :
    ∃ t, execAll [.decFrame] (loopedRequest fc s) = .next t ∧ t.status = 0x04#8 ∧ t.rxSlave = s.slave ∧
      t.rxFunc = fc ∧ t.plen = 4#8 ∧ t.rxAddr = s.addr ∧ t.rxOpnd = s.opnd := by
  obtain ⟨haddr, hopnd⟩ := requestFrame_fields fc s
  have hlen := requestFrame_length fc s
  have hend : decodeAnyFrame (requestFrame fc s) (loopedRequest fc s) =
      finish .okFrame (splitPayload (requestFrame fc s) (afterStage (requestFrame fc s) (loopedRequest fc s))) :=
    decodeAnyFrame_afterStage (by omega) (by omega) (crc_requestFrame fc s)
  rw [execAll_cons (exec_decFrame _), received_loopedRequest, hend, splitPayload_eq]
  exact ⟨_, rfl, rfl, rfl, rfl, rfl, haddr, hopnd⟩

/-- Settles O53: the request received is the request built, and each decoder reads its fields. -/
theorem loopbackRoundTrips : Obligations.LoopbackRoundTrips := by
  intro s
  refine ⟨fun h₁ h₂ => ?read, ?write, ?echo⟩
  case read =>
    rw [execAll_encRead_loop h₁ h₂]
    exact decFrame_loopedRequest 0x03#8 s
  case write =>
    rw [execAll_encWrite_loop]
    exact decFrame_loopedRequest 0x06#8 s
  case echo =>
    obtain ⟨haddr, hopnd⟩ := requestFrame_fields 0x06#8 s
    have hend := decodeResp_echo (F := requestFrame 0x06#8 s) (s := loopedRequest 0x06#8 s) rfl rfl rfl
      (requestFrame_length _ s) (crc_requestFrame _ s)
    rw [haddr, hopnd] at hend
    rw [execAll_encWrite_loop, execAll_cons (exec_decResp _), received_loopedRequest, hend]
    exact ⟨_, rfl, rfl, rfl, rfl, readCell_writeCell_same _ _ _, rfl⟩

/-- Settles O54: DEC_RESP takes the read path, on which the address high byte is the byte count; an even one asks for an
odd length. -/
theorem loopedReadRequestIsNoResponse : Obligations.LoopedReadRequestIsNoResponse := by
  intro s h₁ h₂
  have hlen := requestFrame_length 0x03#8 s
  have hbc : byteAt (requestFrame 0x03#8 s) 2 = hiByte s.addr := rfl
  have hpath : decodeResp (requestFrame 0x03#8 s) (loopedRequest 0x03#8 s) =
      readPath (requestFrame 0x03#8 s) (afterStage (requestFrame 0x03#8 s) (loopedRequest 0x03#8 s)) :=
    (decodeResp_afterStage (s := loopedRequest 0x03#8 s) (.inl rfl) (by omega) (by omega)
      (crc_requestFrame _ s)).trans (selectPath_read rfl rfl rfl)
  rw [execAll_encRead_loop h₁ h₂, execAll_cons (exec_decResp _), received_loopedRequest, hpath]
  by_cases hbad : hiByte s.addr = 0#8 ∨ (hiByte s.addr).getLsbD 0 = true ∨ 250 < (hiByte s.addr).toNat
  · rw [if_pos hbad, readPath_byteCount (by rw [hbc]; exact (byteCountOk_eq_false_iff _).mpr hbad)]
    exact ⟨_, rfl, rfl, rfl⟩
  · have hok : byteCountOk (hiByte s.addr) = true :=
      Bool.of_not_eq_false fun h => hbad ((byteCountOk_eq_false_iff _).mp h)
    obtain ⟨-, -, hdouble⟩ := byteCountOk_half hok
    rw [if_neg hbad, readPath_length (by rwa [hbc]) (by rw [hlen, hbc]; omega)]
    exact ⟨_, rfl, rfl, rfl⟩

/-! ### A received byte replaced -/

/-- The received frame with one byte of RXBUF replaced. -/
theorem received_writeCell {s : State} {j : Nat} (b : Byte) :
    received { s with rxbuf := writeCell s.rxbuf j b } = (received s).set j b := by
  refine List.ext_getElem (by simp) fun i h₁ h₂ => ?_
  simp only [received, List.getElem_map, List.getElem_range, List.getElem_set, readCell_writeCell, eq_comm (a := i)]

theorem byteAt_set {F : List Byte} {i j : Nat} {b : Byte} (h : j < F.length) :
    byteAt (F.set j b) i = if i = j then b else byteAt F i := by
  by_cases hi : i = j
  · subst hi
    rw [if_pos rfl, byteAt, List.getD_eq_getElem _ _ (by rwa [List.length_set]), List.getElem_set_self]
  · rw [if_neg hi, byteAt, byteAt, List.getD_eq_getElem?_getD, List.getElem?_set_ne (Ne.symm hi),
      List.getD_eq_getElem?_getD]

theorem frameBody_set (F : List Byte) (j : Nat) (b : Byte) : frameBody (F.set j b) = (frameBody F).set j b := by
  rw [frameBody, frameBody, List.length_set, List.take_set]

/-- A frame's CRC field is its last two bytes, the low one first (R75). -/
theorem crcField_inj {F G : List Byte} (hlen : F.length = G.length) (h : crcField F = crcField G) :
    byteAt F (F.length - 1) = byteAt G (F.length - 1) ∧ byteAt F (F.length - 2) = byteAt G (F.length - 2) := by
  rw [crcField, crcField, ← hlen] at h
  exact be16_inj h

/-- A body with one byte replaced has another CRC. -/
theorem crc16_set_ne (init : Word) {B : List Byte} {j : Nat} {b : Byte} (h : j < B.length) (hb : b ≠ byteAt B j) :
    crc16 init (B.set j b) ≠ crc16 init B := by
  have split : B = B.take j ++ byteAt B j :: B.drop (j + 1) := by
    rw [byteAt, List.getD_eq_getElem _ _ h, List.getElem_cons_drop, List.take_append_drop]
  rw [List.set_eq_take_append_cons_drop, if_pos h]
  exact fun heq => singleByteChangeChangesCrc init _ _ _ _ hb (heq.trans (congrArg (crc16 init) split))

/-- A received frame whose CRC stage fails on its CRC: ERR_CRC, no value, no exception code, CRC of the body in CRC. -/
theorem decResp_badCrc {s : State} (hf : FuncValid s) (h₁ : 5 ≤ s.rxlen.toNat) (h₂ : s.rxlen.toNat ≤ 256)
    (hbad : ¬CrcGood s) :
    ∃ t, exec .decResp s = .next t ∧ t.status = 0x13#8 ∧ t.errflags = s.errflags ||| 0x08#8 ∧ t.nvalues = 0#8 ∧
      t.excCode = 0#8 ∧ t.crc = crc16 s.cfg.crcInit (frameBody (received s)) := by
  have hlen := received_length s
  exact ⟨_, congrArg Host.Outcome.next (decodeResp_crc hf (by omega) (by omega) hbad), rfl, rfl, rfl, rfl, rfl⟩

/-- Settles O55: the body and its CRC stay, the CRC field changes. -/
theorem corruptedCrcByteIsReported : Obligations.CorruptedCrcByteIsReported := by
  intro s j b hf h₁ h₂ hgood hj hb
  have hlen := received_length s
  have hbody : frameBody ((received s).set j b) = frameBody (received s) := by
    rw [frameBody_set, List.set_eq_of_length_le (by rw [frameBody_length]; omega)]
  have hfield : crcField ((received s).set j b) ≠ crcField (received s) := by
    intro h
    obtain ⟨hhi, hlo⟩ := crcField_inj (List.length_set ..) h
    rw [List.length_set, hlen, byteAt_set (by omega)] at hhi hlo
    rw [← byteAt_received s j (by omega)] at hb
    rcases hj with rfl | rfl
    · exact hb ((if_pos rfl).symm.trans hlo)
    · exact hb ((if_pos rfl).symm.trans hhi)
  have hbad : ¬CrcGood { s with rxbuf := writeCell s.rxbuf j b } := by
    rw [CrcGood, received_writeCell, hbody]
    exact fun h => hfield (h.symm.trans hgood)
  obtain ⟨t, ht, hstatus, herr, hn, hexc, hcrc⟩ := decResp_badCrc (s := { s with rxbuf := writeCell s.rxbuf j b })
    hf h₁ h₂ hbad
  rw [received_writeCell, hbody] at hcrc
  exact ⟨t, ht, hstatus, herr, hn, hexc, hcrc.trans hgood⟩

/-- Settles O56: the CRC field stays, the CRC of the body changes. -/
theorem corruptedBodyByteIsReported : Obligations.CorruptedBodyByteIsReported := by
  intro s j b hf h₁ h₂ hgood hj hb
  have hlen := received_length s
  have hin : j < (frameBody (received s)).length := by rw [frameBody_length]; omega
  have hfield : crcField ((received s).set j b) = crcField (received s) := by
    rw [crcField, crcField, List.length_set, byteAt_set (by omega), byteAt_set (by omega), if_neg (by omega),
      if_neg (by omega)]
  have hcrc : crc16 s.cfg.crcInit (frameBody ((received s).set j b)) ≠
      crc16 s.cfg.crcInit (frameBody (received s)) := by
    rw [frameBody_set]
    refine crc16_set_ne _ hin ?_
    rwa [byteAt_frameBody (by omega), byteAt_received s j (by omega)]
  have hbad : ¬CrcGood { s with rxbuf := writeCell s.rxbuf j b } := by
    rw [CrcGood, received_writeCell, hfield]
    exact fun h => hcrc (h.trans hgood.symm)
  obtain ⟨t, ht, hstatus, herr, hn, hexc, -⟩ := decResp_badCrc (s := { s with rxbuf := writeCell s.rxbuf j b })
    hf h₁ h₂ hbad
  exact ⟨t, ht, hstatus, herr, hn, hexc⟩

end Sys2Proof.Machine

/-! PROOF. The encoders as functions of their operands, the request frames as instructions (41_encode.md; log 5), presented
frames (log 6) and the pseudo-instructions (30_encoding.md R84). -/

namespace Sys2Proof.Machine

/-! ### Request frames as instructions (log 5) -/

/-- What building a request leaves, said of the frame's bytes. -/
theorem buildRequest_frame (fc slave : Byte) (addr operand : Word) (s : State) :
    let F := sealFrame s.cfg.crcInit (requestBody fc slave addr operand)
    let t := buildRequest fc slave addr operand s
    F.length = 8 ∧ (∀ i, i < 8 → readCell t.txbuf i = byteAt F i) ∧
      (∀ i, 8 ≤ i → readCell t.txbuf i = readCell s.txbuf i) ∧
      t = { s with txbuf := t.txbuf, txlen := 8#9, crc := crcField F, func := fc, status := 0x01#8 } := by
  intro F t
  refine ⟨rfl, fun i hi => ?_, fun i hi => ?_, ?_⟩
  · exact (buildRequest_txbuf ..).trans (if_pos hi)
  · exact (buildRequest_txbuf ..).trans (if_neg (Nat.not_lt.mpr hi))
  · simp only [t, F, crcField_sealFrame, buildRequest_eq]

/-- Settles O27: the frames are built as the encoders build them. -/
theorem requestFramesAreBuilt : Obligations.RequestFramesAreBuilt := by
  refine ⟨fun slave addr count s h₁ h₂ => ?read, fun slave addr count s hbad => ?badCount,
    fun slave addr value s => ?write⟩
  case read =>
    obtain ⟨hlen, hframe⟩ := buildRequest_frame 0x03#8 slave addr count s
    exact ⟨_, _, congrArg Host.Outcome.next (buildReadRequest_of_count h₁ h₂ slave addr s), rfl, hlen, hframe⟩
  case badCount => exact congrArg Host.Outcome.next (buildReadRequest_of_bad_count hbad slave addr s)
  case write =>
    obtain ⟨hlen, hframe⟩ := buildRequest_frame 0x06#8 slave addr value s
    exact ⟨_, _, rfl, rfl, hlen, hframe⟩

/-- Settles O28: both run the same operation on the same operands. -/
theorem encodersRunTheFrameOfTheirRegisters : Obligations.EncodersRunTheFrameOfTheirRegisters := fun _ => ⟨rfl, rfl⟩

/-! ### Purity and idempotence -/

/-- What a built request shows depends on its operands and CRC_INIT only. -/
theorem buildRequest_pure (fc slave : Byte) (addr operand : Word) {s s' : State} (h : s.cfg = s'.cfg) :
    let t := buildRequest fc slave addr operand s
    let t' := buildRequest fc slave addr operand s'
    (∀ k, k < 8 → readCell t.txbuf k = readCell t'.txbuf k) ∧ t.txlen = t'.txlen ∧ t.crc = t'.crc ∧
      t.func = t'.func ∧ t'.status = 0x01#8 := by
  intro t t'
  refine ⟨fun k hk => ?_, rfl, ?_, rfl, rfl⟩
  · simp only [t, t', buildRequest_txbuf, if_pos hk, h]
  · simp only [t, t', buildRequest_eq, h]

theorem writeCells_idem {w size i : Nat} {m : Cells w} {vs : List (BitVec w)} (h : cellsWf size m = true)
    (hi : i + vs.length ≤ size) : writeCells (writeCells m i vs) i vs = writeCells m i vs := by
  have once := cellsWf_writeCells vs h hi
  refine cellsWf_ext (cellsWf_writeCells vs once hi) once fun j => ?_
  simp only [readCell_writeCells]
  split <;> rfl

theorem buildRequest_idem (fc slave : Byte) (addr operand : Word) {s : State} (h : Memory.wf s.txbuf = true) :
    buildRequest fc slave addr operand (buildRequest fc slave addr operand s) =
      buildRequest fc slave addr operand s := by
  have fits : 0 + (sealFrame s.cfg.crcInit (requestBody fc slave addr operand)).length ≤ maxFrame := by
    rw [sealFrame_length, requestBody_length]
    decide
  rw [buildRequest_eq fc slave addr operand s, buildRequest_eq]
  simp only [writeCells_idem h fits]

/-- A refused read request refused again changes nothing more. -/
theorem finish_errOperand_idem (s : State) :
    finish .errOperand { finish .errOperand { s with txlen := 0#9 } with txlen := 0#9 } =
      finish .errOperand { s with txlen := 0#9 } := by
  simp only [finish, BitVec.or_assoc, BitVec.or_self]

/-- Settles O29: an encoder ends as its operands say, and a build repeated writes the same bytes. -/
theorem encodersArePureAndIdempotent : Obligations.EncodersArePureAndIdempotent := by
  refine ⟨?pure, ?idempotent⟩
  case pure =>
    rintro i s s' t t' (rfl | rfl) hslave haddr hopnd hcfg h h' hok
    · rw [exec_encRead] at h h'
      rcases Nat.lt_or_ge s.opnd.toNat 1 with hlo | hlo
      · rw [buildReadRequest_of_bad_count (.inl hlo)] at h
        cases h
        cases hok
      rcases Nat.lt_or_ge 125 s.opnd.toNat with hhi | hhi
      · rw [buildReadRequest_of_bad_count (.inr hhi)] at h
        cases h
        cases hok
      rw [← hslave, ← haddr, ← hopnd, buildReadRequest_of_count hlo hhi] at h'
      rw [buildReadRequest_of_count hlo hhi] at h
      cases h
      cases h'
      exact buildRequest_pure _ _ _ _ hcfg
    · rw [exec_encWrite] at h h'
      rw [← hslave, ← haddr, ← hopnd] at h'
      cases h
      cases h'
      exact buildRequest_pure _ _ _ _ hcfg
  case idempotent =>
    rintro i s t (rfl | rfl) hwf h
    · rw [exec_encRead] at h
      rw [exec_encRead]
      rcases buildReadRequest_cases s.slave s.addr s.opnd s with ⟨hbad, hend⟩ | ⟨hlo, hhi, hend⟩
      all_goals
        rw [hend] at h
        cases h
      · have again := buildReadRequest_of_bad_count hbad s.slave s.addr (finish .errOperand { s with txlen := 0#9 })
        exact congrArg Host.Outcome.next (again.trans (finish_errOperand_idem s))
      · have again := buildReadRequest_of_count hlo hhi s.slave s.addr (buildRequest 0x03#8 s.slave s.addr s.opnd s)
        exact congrArg Host.Outcome.next (again.trans (buildRequest_idem _ _ _ _ hwf))
    · rw [exec_encWrite] at h
      cases h
      exact congrArg Host.Outcome.next (buildRequest_idem _ _ _ _ hwf)

/-! ### A frame written into a buffer -/

/-- Reading back what was written from entry 0 on. -/
theorem map_readCell_writeCells {w : Nat} (m : Cells w) (vs : List (BitVec w)) :
    (List.range vs.length).map (readCell (writeCells m 0 vs)) = vs := by
  refine List.ext_getElem (by simp) fun i _ h => ?_
  rw [List.getElem_map, List.getElem_range, readCell_writeCells, if_pos ⟨Nat.zero_le i, by omega⟩, Nat.sub_zero,
    List.getD_eq_getElem _ _ h]

theorem received_of_written {s : State} {m : Memory} {F : List Byte} (hlen : F.length ≤ 256)
    (hbuf : s.rxbuf = writeCells m 0 F) (hrx : s.rxlen = BitVec.ofNat 9 F.length) : received s = F := by
  have hn : s.rxlen.toNat = F.length := by
    rw [hrx, BitVec.toNat_ofNat]
    omega
  rw [received, hn, hbuf, map_readCell_writeCells]

/-! ### Presented frames (log 6) -/

section Present

variable {F : List Byte} {s : State} {slave : Byte} {addr operand : Word}

theorem presentFrame_readRequest (h : decodeRequest s.cfg.crcInit F = .ok (.frameReadRequest slave addr operand)) :
    presentFrame F s = presentWord 0x0003#16 { s with slave := slave, addr := addr, opnd := operand } := by
  simp only [presentFrame, h]

theorem presentFrame_writeRequest (h : decodeRequest s.cfg.crcInit F = .ok (.frameWriteRequest slave addr operand)) :
    presentFrame F s = presentWord 0x0004#16 { s with slave := slave, addr := addr, opnd := operand } := by
  simp only [presentFrame, h]

theorem presentFrame_other {e : DecodeError} (h : decodeRequest s.cfg.crcInit F = .error e) :
    presentFrame F s =
      presentWord 0x0005#16 { s with rxbuf := writeCells s.rxbuf 0 F, rxlen := BitVec.ofNat 9 F.length } := by
  simp only [presentFrame, h]

/-- A long table word is a request where it decodes as one, else a response. -/
theorem decodeTableWord_frame {nbits w : Nat} {i : Instr} (hn : 16 < nbits) (h : decodeTableWord nbits w = some i) :
    decodeRequest Config.default.crcInit (frameBytes nbits w) = .ok i ∨
    ((∃ e, decodeRequest Config.default.crcInit (frameBytes nbits w) = .error e) ∧
      decodeResponse (frameBytes nbits w) = .ok i) := by
  rw [decodeTableWord, if_neg (Nat.not_le.mpr hn)] at h
  cases hreq : decodeRequest Config.default.crcInit (frameBytes nbits w) with
  | ok i' =>
    simp only [hreq, Option.some.injEq] at h
    exact .inl (congrArg _ h)
  | error e =>
    simp only [hreq] at h
    refine .inr ⟨⟨e, rfl⟩, ?_⟩
    cases hresp : decodeResponse (frameBytes nbits w) with
    | ok i' =>
      rw [hresp, Except.toOption, Option.some.injEq] at h
      exact congrArg _ h
    | error e' =>
      rw [hresp] at h
      cases h

end Present

/-- Settles O49: a request runs as its encoder command on the operands presented, a response as DEC_RESP on its bytes. -/
theorem presentedFrameRunsNext : Obligations.PresentedFrameRunsNext := by
  intro s nbits w i hn hcfg h
  have hpresent : s.withFetchWord nbits w = presentFrame (frameBytes nbits w) s := if_neg (Nat.not_le.mpr hn)
  rw [hpresent]
  rcases decodeTableWord_frame hn h with hreq | ⟨⟨e, hreq⟩, hresp⟩ <;> rw [← hcfg] at hreq
  · obtain ⟨_, slave, addr, operand, -, ⟨-, -, -, rfl⟩ | ⟨-, rfl⟩⟩ := decodeRequest_ok hreq
    · exact ⟨_, (congrArg step (presentFrame_readRequest hreq)).trans (step_presentWord _ _), rfl⟩
    · exact ⟨_, (congrArg step (presentFrame_writeRequest hreq)).trans (step_presentWord _ _), rfl⟩
  · obtain ⟨-, hlen⟩ := length_of_decodeResponse hresp
    obtain ⟨henc, -⟩ := encode_of_decodeResponse (init := s.cfg.crcInit) hresp
    refine ⟨{ s with
      rxbuf := writeCells s.rxbuf 0 (frameBytes nbits w), rxlen := BitVec.ofNat 9 (frameBytes nbits w).length }, ?_, rfl⟩
    rw [presentFrame_other hreq, step_presentWord, exec_of_encode_response henc]
    exact (exec_decResp _).trans (by rw [received_of_written hlen rfl rfl])

/-! ### The pseudo-instructions (R84) -/

/-- A line `W <reg>, <value>` on an RW register is served by storing the value. -/
theorem step_lineW {s : State} {r : PortReg} {d : Word} {rest : List Input} (hr : portReg (portAddr r) = some r)
    (ha : access r = .rw) (hp : s.pending = lineW r d :: rest) :
    step s = .next (writeReg r d { s with pending := rest }) :=
  (step_write hp).trans (hostWrite_rw hr ha d _)

/-- A line `C <MNEMONIC>` is served by running its command. -/
theorem step_lineC {s : State} {w : Word} {rest : List Input} (hp : s.pending = lineC w :: rest) :
    step s = exec (decodeCommand w) { s with pending := rest } :=
  (step_write hp).trans (hostWrite_cmd w _)

theorem portReg_portAddr_rxbuf {i : Nat} (h : i < 256) : portReg (portAddr (.rxbuf i)) = some (.rxbuf i) := by
  have hval : (portAddr (.rxbuf i)).toNat = 0x200 + i := by
    rw [portAddr, BitVec.toNat_ofNat]
    omega
  rw [portReg_rxbuf (by omega) (by omega), hval, Nat.add_sub_cancel_left]

/-- The lines of RECV that fill RXBUF, served one by one. -/
theorem run_recvLines (n : Nat) (bytes : List Byte) {s : State} {i : Nat} {rest : List Input}
    (hi : i + bytes.length ≤ 256) (hp : s.pending = recvLines i bytes ++ rest) :
    Host.Core.run Sys2Proof.core (bytes.length + n) s =
      Host.Core.run Sys2Proof.core n { s with rxbuf := writeCells s.rxbuf i bytes, pending := rest } := by
  induction bytes generalizing s i with
  | nil =>
    rw [List.length_nil, Nat.zero_add, writeCells, ← show s.pending = rest from hp]
  | cons b bytes ih =>
    rw [List.length_cons] at hi
    have hstep := step_lineW (portReg_portAddr_rxbuf (show i < 256 by omega)) rfl hp
    have low : (b.setWidth 16).setWidth 8 = b := by simp
    rw [List.length_cons, Nat.add_right_comm, run_step _ hstep, writeReg_rxbuf, low, ih (by omega) rfl, writeCells]

/-- Settles O57: the bytes are stored from RXBUF[0] on, then their number in RXLEN. -/
theorem recvPresentsTheFrame : Obligations.RecvPresentsTheFrame := by
  intro s F rest hlen hp
  rw [Pseudo.expand, List.append_assoc] at hp
  have hrx : (BitVec.ofNat 16 F.length).setWidth 9 = BitVec.ofNat 9 F.length := by
    refine BitVec.eq_of_toNat_eq ?_
    rw [BitVec.toNat_setWidth, BitVec.toNat_ofNat, BitVec.toNat_ofNat]
    omega
  have hlast : step { s with
        rxbuf := writeCells s.rxbuf 0 F, pending := [lineW .rxlen (BitVec.ofNat 16 F.length)] ++ rest } =
      .next { s with rxbuf := writeCells s.rxbuf 0 F, rxlen := BitVec.ofNat 9 F.length, pending := rest } := by
    rw [← hrx]
    exact step_lineW (r := .rxlen) (d := BitVec.ofNat 16 F.length) rfl rfl rfl
  refine ⟨_, (run_recvLines 1 F (by omega) hp).trans ((run_step 0 hlast).trans rfl),
    received_of_written hlen rfl rfl, fun j hj => ?_, rfl⟩
  exact (readCell_writeCells _ _ _ _).trans (if_neg (by omega))

theorem run_one (s : State) : Host.Core.run Sys2Proof.core 1 s = step s := by
  have hstep : Sys2Proof.core.step s = step s := rfl
  simp only [Host.Core.run, hstep]
  cases step s <;> rfl

/-- The three operand lines of READREQ and WRITEREQ, then the encoder's command. -/
theorem run_request {s : State} {slave addr operand w : Word} {rest : List Input}
    (hp : s.pending = [lineW .slave slave, lineW .addr addr, lineW .opnd operand, lineC w] ++ rest) :
    Host.Core.run Sys2Proof.core 4 s =
      exec (decodeCommand w) { s with slave := loByte slave, addr := addr, opnd := operand, pending := rest } := by
  have low : slave.setWidth 8 = loByte slave := BitVec.setWidth_eq_extractLsb' (by omega)
  refine (run_step 3 (step_lineW rfl rfl hp)).trans ?_
  refine (run_step 2 (step_lineW rfl rfl rfl)).trans ?_
  refine (run_step 1 (step_lineW rfl rfl rfl)).trans ?_
  rw [run_one, ← low]
  exact step_lineC rfl

/-- Settles O58: the lines write the operands, and the encoder runs the frame they name. -/
theorem requestPseudosRunTheirFrame : Obligations.RequestPseudosRunTheirFrame := by
  intro s slave addr operand rest u
  obtain ⟨hread, hwrite⟩ := encodersRunTheFrameOfTheirRegisters u
  exact ⟨fun hp => (run_request hp).trans hread, fun hp => (run_request hp).trans hwrite⟩

end Sys2Proof.Machine

/-! PROOF. The invariant of the reachable states: the transmit side, the results, and a step that keeps both (10_state.md
sections 2 to 5). -/

namespace Sys2Proof.Machine

/-! ### The invariant in its parts -/

/-- The invariant of the transmit side: TXBUF and TXLEN (R29, R39, R75). -/
structure TxInv (init : Word) (txbuf : Memory) (txlen : Len) : Prop where
  wf : Memory.wf txbuf = true
  legal : txlen = 0#9 ∨ txlen = 8#9
  tail : ∀ i, 8 ≤ i → readCell txbuf i = 0#8
  frame : txlen = 8#9 → ∃ i, decodeRequest init ((List.range txlen.toNat).map (readCell txbuf)) = .ok i

/-- The invariant of the results: VALUES, NVALUES, PLEN and EXC_CODE (R34, R38, R41, R142). -/
structure ResultsInv (values : Cells 16) (nvalues plen excCode : Byte) : Prop where
  wf : cellsWf nvaluesMax values = true
  nvaluesLe : nvalues.toNat ≤ 125
  plenLe : plen.toNat ≤ 252
  beyond : ∀ i, nvalues.toNat ≤ i → readCell values i = 0#16
  noValueWithException : excCode = 0#8 ∨ nvalues = 0#8

theorem inv_iff (s : State) :
    s.Inv ↔ TxInv s.cfg.crcInit s.txbuf s.txlen ∧ Memory.wf s.rxbuf = true ∧ statusLegal s.status = true ∧
      ResultsInv s.values s.nvalues s.plen s.excCode :=
  ⟨fun h => ⟨⟨h.txWf, h.txlenLegal, h.txTail, h.txFrame⟩, h.rxWf, h.statusLegal,
      ⟨h.valuesWf, h.nvaluesLe, h.plenLe, h.valuesBeyond, h.noValueWithException⟩⟩,
    fun ⟨tx, rx, st, res⟩ => ⟨tx.wf, rx, res.wf, st, tx.legal, res.nvaluesLe, res.plenLe, res.beyond, tx.tail, tx.frame,
      res.noValueWithException⟩⟩

/-- Every code is a legal STATUS (R22). -/
theorem statusLegal_code (c : Status) : statusLegal c.code = true := by cases c <;> rfl

/-- With no transmit frame marked valid, TXBUF only has to keep its form. -/
theorem TxInv.unmark {init : Word} {txbuf : Memory} {txlen : Len} (h : TxInv init txbuf txlen) :
    TxInv init txbuf 0#9 :=
  ⟨h.wf, .inl rfl, h.tail, fun h => absurd h (by decide)⟩

theorem TxInv.reset (init : Word) : TxInv init [] 0#9 :=
  ⟨rfl, .inl rfl, fun _ _ => rfl, fun h => absurd h (by decide)⟩

/-- Results that show no value. -/
theorem ResultsInv.noValue {plen : Byte} (h : plen.toNat ≤ 252) (excCode : Byte) : ResultsInv [] 0#8 plen excCode :=
  ⟨rfl, by decide, h, fun _ _ => rfl, .inr rfl⟩

/-- The results cleared. -/
theorem ResultsInv.cleared (excCode : Byte) : ResultsInv [] 0#8 0#8 excCode := .noValue (by decide) excCode

/-- Settles O59: at reset no frame is marked valid and no value shown. -/
theorem resetMeetsTheInvariant : Obligations.ResetMeetsTheInvariant := fun c =>
  (inv_iff _).mpr ⟨.reset c.crcInit, rfl, rfl, .cleared _⟩

/-! ### The encoders -/

/-- A request that decodes, written from TXBUF[0] on and marked valid. -/
theorem TxInv.write {init : Word} {txbuf : Memory} {txlen : Len} (h : TxInv init txbuf txlen) {F : List Byte}
    (hlen : F.length = 8) {i : Instr} (hdec : decodeRequest init F = .ok i) :
    TxInv init (writeCells txbuf 0 F) 8#9 where
  wf := cellsWf_writeCells F h.wf (by rw [hlen]; decide)
  legal := .inr rfl
  tail j hj := by rw [readCell_writeCells, if_neg (by omega), h.tail j hj]
  frame _ := ⟨i, by rw [show (8#9 : Len).toNat = F.length from hlen.symm, map_readCell_writeCells, hdec]⟩

/-- A build keeps the invariant when the frame it builds is a request. -/
theorem buildRequest_keeps_inv {fc slave : Byte} {addr operand : Word} {s : State} (h : s.Inv) {i : Instr}
    (hdec : decodeRequest s.cfg.crcInit (sealFrame s.cfg.crcInit (requestBody fc slave addr operand)) = .ok i) :
    (buildRequest fc slave addr operand s).Inv := by
  obtain ⟨tx, rx, -, results⟩ := (inv_iff s).mp h
  rw [inv_iff, buildRequest_eq]
  exact ⟨tx.write (sealFrame_length _ _) hdec, rx, rfl, results⟩

theorem buildReadRequest_keeps_inv {slave : Byte} {addr count : Word} {s : State} (h : s.Inv) :
    (buildReadRequest slave addr count s).Inv := by
  rcases buildReadRequest_cases slave addr count s with ⟨-, hend⟩ | ⟨hlo, hhi, hend⟩ <;> rw [hend]
  · obtain ⟨tx, rx, -, results⟩ := (inv_iff s).mp h
    exact (inv_iff _).mpr ⟨tx.unmark, rx, rfl, results⟩
  · refine buildRequest_keeps_inv (i := .frameReadRequest slave addr count) h ?_
    rw [decodeRequest_sealFrame, if_pos rfl, if_pos ⟨hlo, hhi⟩]

theorem buildWriteRequest_keeps_inv {slave : Byte} {addr value : Word} {s : State} (h : s.Inv) :
    (buildWriteRequest slave addr value s).Inv :=
  buildRequest_keeps_inv (i := .frameWriteRequest slave addr value) h (decodeRequest_sealFrame ..)

/-! ### The decoders -/

theorem RespEnd.resultsInv {F : List Byte} {s t : State} (h : RespEnd F s t) :
    ResultsInv t.values t.nvalues t.plen t.excCode := by
  cases h with
  | error _ _ _ _ _ _ _ plenLe => exact .noValue plenLe _
  | exception length => exact .noValue (afterStage_plen_toNat_le s (by omega)) _
  | read byteCount length =>
    obtain ⟨-, hle, hdouble⟩ := byteCountOk_half byteCount
    have hn : (BitVec.ofNat 8 ((byteAt F 2).toNat / 2)).toNat = (byteAt F 2).toNat / 2 := by
      rw [BitVec.toNat_ofNat]
      omega
    refine ⟨cellsWf_writeCells _ (cellsWf_nil _) ?_, ?_, afterStage_plen_toNat_le s (by omega), fun i hi => ?_, .inl rfl⟩
    · rw [frameValues_length, Nat.zero_add]
      exact hle
    · exact hn.trans_le hle
    · exact readCell_frameValues_beyond F (hn.symm.trans_le hi)
  | write length =>
    refine ⟨cellsWf_writeCell _ (cellsWf_nil _) (by decide), ?_, afterStage_plen_toNat_le s (by omega), fun i hi => ?_,
      .inl rfl⟩
    · exact (by decide : (1#8 : Byte).toNat ≤ 125)
    · have hne : i ≠ 0 := Nat.one_le_iff_ne_zero.mp hi
      exact (readCell_writeCell _ _ _ _).trans (if_neg hne)

theorem decodeAnyFrame_resultsInv (F : List Byte) (s : State) :
    ResultsInv (decodeAnyFrame F s).values (decodeAnyFrame F s).nvalues (decodeAnyFrame F s).plen
      (decodeAnyFrame F s).excCode := by
  by_cases hl : F.length < 4 ∨ 256 < F.length
  · rw [decodeAnyFrame_length hl]
    exact .cleared _
  by_cases hcrc : crc16 s.cfg.crcInit (frameBody F) = crcField F
  · rw [decodeAnyFrame_afterStage (by omega) (by omega) hcrc, splitPayload_eq]
    exact .noValue (afterStage_plen_toNat_le s (by omega)) _
  · rw [decodeAnyFrame_crc (by omega) (by omega) hcrc]
    exact .cleared _

theorem decodeResp_keeps_inv {s : State} (h : s.Inv) (F : List Byte) : (decodeResp F s).Inv := by
  obtain ⟨tx, rx, -, -⟩ := (inv_iff s).mp h
  have results := (decodeResp_end F s).resultsInv
  obtain ⟨c, _, _, _, _, _, _, _, _, _, _, -, hend⟩ := decodeResp_frame F s
  rw [hend] at results ⊢
  exact (inv_iff _).mpr ⟨tx, rx, statusLegal_code c, results⟩

theorem decodeAnyFrame_keeps_inv {s : State} (h : s.Inv) (F : List Byte) : (decodeAnyFrame F s).Inv := by
  obtain ⟨tx, rx, -, -⟩ := (inv_iff s).mp h
  have results := decodeAnyFrame_resultsInv F s
  obtain ⟨c, _, _, _, _, _, _, _, -, hend⟩ := decodeAnyFrame_frame F s
  rw [hend] at results ⊢
  exact (inv_iff _).mpr ⟨tx, rx, statusLegal_code c, results⟩

/-! ### Every instruction and every step -/

theorem loopBack_keeps_inv {s : State} (h : s.Inv) : (loopBack s).Inv := by
  obtain ⟨tx, rx, -, results⟩ := (inv_iff s).mp h
  refine (inv_iff _).mpr ⟨tx, cellsWf_writeCells _ rx ?_, rfl, results⟩
  rw [Nat.zero_add]
  exact List.length_take_le _ _

theorem exec_keeps_inv {i : Instr} {s t : State} (h : s.Inv) (e : exec i s = .next t) : t.Inv := by
  cases i <;> cases e
  case nop => exact h
  case crcInit | crcByte | illegal =>
    obtain ⟨tx, rx, -, results⟩ := (inv_iff s).mp h
    exact (inv_iff _).mpr ⟨tx, rx, rfl, results⟩
  case loop => exact loopBack_keeps_inv h
  case encRead | frameReadRequest => exact buildReadRequest_keeps_inv h
  case encWrite | frameWriteRequest => exact buildWriteRequest_keeps_inv h
  case decResp | frameReadResponse | frameWriteResponse | frameExceptionResponse => exact decodeResp_keeps_inv h _
  case decFrame => exact decodeAnyFrame_keeps_inv h _

/-- A host write reaches one part of the invariant, the receive buffer, inside its 256 entries (R39 to R41, R53). -/
theorem writeReg_keeps_inv {a : PortAddr} {r : PortReg} (hr : portReg a = some r) (d : Word) {s : State} (h : s.Inv) :
    (writeReg r d s).Inv := by
  obtain ⟨tx, rx, st, results⟩ := (inv_iff s).mp h
  refine (inv_iff _).mpr ?_
  cases r
  case rxbuf i => exact ⟨tx, cellsWf_writeCell _ rx (rxbuf_index_lt hr), st, results⟩
  all_goals exact ⟨tx, rx, st, results⟩

/-- The inputs still to come are no part of the invariant. -/
theorem inv_pending {s : State} (h : s.Inv) (rest : List Input) : State.Inv { s with pending := rest } :=
  (inv_iff _).mpr ((inv_iff s).mp h)

/-- Settles O60, by the input the step serves. -/
theorem stepKeepsTheInvariant : Obligations.StepKeepsTheInvariant := by
  intro s t h e
  rcases step_cases s with ⟨-, hstep⟩ | ⟨a, rest, -, hstep⟩ | ⟨a, d, rest, -, hstep⟩ | ⟨rest, -, hstep⟩
  · cases hstep.symm.trans e
    exact h
  · obtain ⟨r, -, rfl⟩ := hostRead_next (hstep.symm.trans e)
    exact (inv_iff _).mpr ((inv_iff s).mp h)
  · have hrest := inv_pending h rest
    rcases hostWrite_ends (hstep.symm.trans e) with ⟨-, hexec⟩ | ⟨-, rfl⟩ | ⟨r, hr, rfl⟩ | rfl
    · exact exec_keeps_inv hrest hexec
    · exact (inv_iff _).mpr ((inv_iff { s with pending := rest }).mp hrest)
    · exact writeReg_keeps_inv hr d hrest
    · exact hrest
  · cases hstep.symm.trans e
    exact (inv_iff _).mpr ⟨.reset _, rfl, rfl, .cleared _⟩

end Sys2Proof.Machine
